-- ==== Sys2Proof/Word.lean ====
section
/-! DEFINITION. The two data widths of the machine and their plainest arithmetic (00_scope.md R8, R10, R11). -/

namespace Sys2Proof

/-- A machine word, an address or a register: 16 bits, bit 0 the least significant (R8, R10). -/
abbrev Word := BitVec 16

/-- A byte: 8 bits (R8). -/
abbrev Byte := BitVec 8

/-- A CRU bit address: 12 bits (R8). -/
abbrev CruAddr := BitVec 12

/-- A register field of an instruction word: R0 to R15 (30_encoding.md R180). -/
abbrev Reg := BitVec 4

end Sys2Proof
end

