-- ==== Sys2Proof/Syntax.lean ====
section
/-! DEFINITION. The instructions: one constructor per row of spec/opcode_table.json (30_encoding.md R170 to R188).
An instruction is what its FIRST word says. Extension and immediate words are no fields: they are fetched while the
instruction runs, between its other accesses (40_operands.md R203, 20_memory.md R147; assumption 19). -/

namespace Sys2Proof

/-- A general address: the mode T and the register field of R180. Mode 2 splits in two, since register field 0 means
symbolic there. -/
inductive GA where
  /-- T = 0, `Rn`: workspace register direct. -/
  | reg (n : Reg)
  /-- T = 1, `*Rn`: workspace register indirect. -/
  | ind (n : Reg)
  /-- T = 2 with register field 0, `@addr`: symbolic, one extension word. -/
  | sym
  /-- T = 2 with register field n ≠ 0, `@addr(Rn)`: indexed, one extension word. -/
  | idx (n : Reg)
  /-- T = 3, `*Rn+`: register indirect with autoincrement. -/
  | inc (n : Reg)
deriving DecidableEq, Repr

/-- The instruction set. Field names: `src`/`dst`/`g` a general address (Ts with S, Td with D), `d` the register field D,
`w` the register field W, `n` the XOP number, `c` a count field, `disp` a displacement, `low` the bits an ILLEGAL row
leaves free. -/
inductive Instr where
  -- format I (R172)
  | szc (src dst : GA)
  | szcb (src dst : GA)
  | s (src dst : GA)
  | sb (src dst : GA)
  | c (src dst : GA)
  | cb (src dst : GA)
  | a (src dst : GA)
  | ab (src dst : GA)
  | mov (src dst : GA)
  | movb (src dst : GA)
  | soc (src dst : GA)
  | socb (src dst : GA)
  -- format II (R173)
  | jmp (disp : Byte)
  | jlt (disp : Byte)
  | jle (disp : Byte)
  | jeq (disp : Byte)
  | jhe (disp : Byte)
  | jgt (disp : Byte)
  | jne (disp : Byte)
  | jnc (disp : Byte)
  | joc (disp : Byte)
  | jno (disp : Byte)
  | jl (disp : Byte)
  | jh (disp : Byte)
  | jop (disp : Byte)
  | sbo (disp : Byte)
  | sbz (disp : Byte)
  | tb (disp : Byte)
  -- formats III and IX (R174)
  | coc (src : GA) (d : Reg)
  | czc (src : GA) (d : Reg)
  | xor (src : GA) (d : Reg)
  | xop (src : GA) (n : BitVec 4)
  | mpy (src : GA) (d : Reg)
  | div (src : GA) (d : Reg)
  -- format IV (R175)
  | ldcr (src : GA) (c : BitVec 4)
  | stcr (dst : GA) (c : BitVec 4)
  -- format V (R176)
  | sra (w : Reg) (c : BitVec 4)
  | srl (w : Reg) (c : BitVec 4)
  | sla (w : Reg) (c : BitVec 4)
  | src (w : Reg) (c : BitVec 4)
  -- format VI (R177)
  | blwp (g : GA)
  | b (g : GA)
  | x (g : GA)
  | clr (g : GA)
  | neg (g : GA)
  | inv (g : GA)
  | inc (g : GA)
  | inct (g : GA)
  | dec (g : GA)
  | dect (g : GA)
  | bl (g : GA)
  | swpb (g : GA)
  | seto (g : GA)
  | abs (g : GA)
  -- format VIII (R179)
  | li (w : Reg)
  | ai (w : Reg)
  | andi (w : Reg)
  | ori (w : Reg)
  | ci (w : Reg)
  | stwp (w : Reg)
  | stst (w : Reg)
  | lwpi
  | limi
  -- format VII (R178)
  | idle
  | rset
  | rtwp
  | ckon
  | ckof
  | lrex
  -- the four ILLEGAL ranges of R186
  /-- 0x0000 to 0x01FF. -/
  | illegal0000 (low : BitVec 9)
  /-- 0x0320 to 0x033F. -/
  | illegal0320 (low : BitVec 5)
  /-- 0x0780 to 0x07FF. -/
  | illegal0780 (low : BitVec 7)
  /-- 0x0C00 to 0x0FFF. -/
  | illegal0C00 (low : BitVec 10)
deriving DecidableEq, Repr

/-- How many extension words a general address takes (R171, R180). -/
def GA.extensionWords : GA → Nat
  | .reg _ => 0
  | .ind _ => 0
  | .sym => 1
  | .idx _ => 1
  | .inc _ => 0

end Sys2Proof
end

