-- ==== Sys2Proof/WellFormed.lean ====
section
/-! DEFINITION. Which terms of `Instr` an instruction word can stand for. Every value of every operand field is legal
(30_encoding.md R188), so the one check is R180's: register field 0 in mode 2 means symbolic, never "indexed by R0". -/

namespace Sys2Proof

/-- R180: an indexed address names a register other than R0. -/
def GA.wf : GA → Bool
  | .reg _ => true
  | .ind _ => true
  | .sym => true
  | .idx n => n != 0
  | .inc _ => true

/-- An instruction is well formed when each of its general addresses is. -/
def Instr.wf : Instr → Bool
  | .szc gs gd | .szcb gs gd | .s gs gd | .sb gs gd | .c gs gd | .cb gs gd
  | .a gs gd | .ab gs gd | .mov gs gd | .movb gs gd | .soc gs gd | .socb gs gd => gs.wf && gd.wf
  | .jmp _ | .jlt _ | .jle _ | .jeq _ | .jhe _ | .jgt _ | .jne _ | .jnc _ | .joc _ | .jno _ | .jl _ | .jh _ | .jop _
  | .sbo _ | .sbz _ | .tb _ => true
  | .coc gs _ | .czc gs _ | .xor gs _ | .xop gs _ | .mpy gs _ | .div gs _ | .ldcr gs _ => gs.wf
  | .stcr gd _ => gd.wf
  | .sra _ _ | .srl _ _ | .sla _ _ | .src _ _ => true
  | .blwp g | .b g | .x g | .clr g | .neg g | .inv g | .inc g | .inct g | .dec g | .dect g | .bl g | .swpb g
  | .seto g | .abs g => g.wf
  | .li _ | .ai _ | .andi _ | .ori _ | .ci _ | .stwp _ | .stst _ | .lwpi | .limi => true
  | .idle | .rset | .rtwp | .ckon | .ckof | .lrex => true
  | .illegal0000 _ | .illegal0320 _ | .illegal0780 _ | .illegal0C00 _ => true

end Sys2Proof
end

