-- ==== Sys2Proof/Decode.lean ====
section
/-! DEFINITION. The decoder and, after it, the encoder (30_encoding.md sections 1 to 4). Decoding is a pure total function
of the instruction word (R170); every word is one row's, the ILLEGAL rows included (R186). -/

namespace Sys2Proof

/-- Why a list of bytes gives no instruction. Only the bytes can be missing: no word is refused (R170). Safe. -/
inductive DecodeError where
  /-- Fewer than two bytes: there is no whole instruction word (R102). -/
  | truncated
deriving DecidableEq, Repr

/-- R180: the mode field T and the register field together. -/
def decodeGA (t : BitVec 2) (n : Reg) : GA :=
  match t with
  | 0#2 => .reg n
  | 1#2 => .ind n
  | 2#2 => if n = 0#4 then .sym else .idx n
  | 3#2 => .inc n

/-- Bits 5-4 and 3-0: the source general address Ts, S. -/
def sourceGA (w : Word) : GA := decodeGA (w.extractLsb' 4 2) (w.extractLsb' 0 4)

/-- Bits 11-10 and 9-6: the destination general address Td, D (R172). -/
def destGA (w : Word) : GA := decodeGA (w.extractLsb' 10 2) (w.extractLsb' 6 4)

/-- Bits 9-6: D, the XOP number or the CRU count (R174, R175). -/
def fieldD (w : Word) : BitVec 4 := w.extractLsb' 6 4

/-- Bits 7-4: the shift count (R176). -/
def fieldC (w : Word) : BitVec 4 := w.extractLsb' 4 4

/-- Bits 3-0: W (R176, R179). -/
def fieldW (w : Word) : Reg := w.extractLsb' 0 4

/-- Bits 7-0: the displacement (R173). -/
def fieldDisp (w : Word) : Byte := w.extractLsb' 0 8

/-- 0x0000 to 0x03FF: the ILLEGAL low range, then formats VIII and VII by bits 8-5 (R178, R179, R186). -/
def decodeLow (w : Word) : Instr :=
  if w.extractLsb' 9 1 = 0#1 then .illegal0000 (w.extractLsb' 0 9)
  else match w.extractLsb' 5 4 with
    | 0x0#4 => .li (fieldW w)
    | 0x1#4 => .ai (fieldW w)
    | 0x2#4 => .andi (fieldW w)
    | 0x3#4 => .ori (fieldW w)
    | 0x4#4 => .ci (fieldW w)
    | 0x5#4 => .stwp (fieldW w)
    | 0x6#4 => .stst (fieldW w)
    | 0x7#4 => .lwpi
    | 0x8#4 => .limi
    | 0x9#4 => .illegal0320 (w.extractLsb' 0 5)
    | 0xA#4 => .idle
    | 0xB#4 => .rset
    | 0xC#4 => .rtwp
    | 0xD#4 => .ckon
    | 0xE#4 => .ckof
    | _ => .lrex  -- 0xF

/-- 0x0400 to 0x07FF: format VI by bits 9-6, then the ILLEGAL range 0x0780 to 0x07FF (R177, R186). -/
def decodeSingle (w : Word) : Instr :=
  match w.extractLsb' 6 4 with
    | 0x0#4 => .blwp (sourceGA w)
    | 0x1#4 => .b (sourceGA w)
    | 0x2#4 => .x (sourceGA w)
    | 0x3#4 => .clr (sourceGA w)
    | 0x4#4 => .neg (sourceGA w)
    | 0x5#4 => .inv (sourceGA w)
    | 0x6#4 => .inc (sourceGA w)
    | 0x7#4 => .inct (sourceGA w)
    | 0x8#4 => .dec (sourceGA w)
    | 0x9#4 => .dect (sourceGA w)
    | 0xA#4 => .bl (sourceGA w)
    | 0xB#4 => .swpb (sourceGA w)
    | 0xC#4 => .seto (sourceGA w)
    | 0xD#4 => .abs (sourceGA w)
    | 0xE#4 => .illegal0780 (w.extractLsb' 0 7)
    | _ => .illegal0780 (w.extractLsb' 0 7)  -- 0xF

/-- 0x0000 to 0x0FFF by bits 11-10, the shifts by bits 9-8 (R176, R186). -/
def decodeShort (w : Word) : Instr :=
  match w.extractLsb' 10 2 with
    | 0#2 => decodeLow w
    | 1#2 => decodeSingle w
    | 2#2 =>
      match w.extractLsb' 8 2 with
        | 0#2 => .sra (fieldW w) (fieldC w)
        | 1#2 => .srl (fieldW w) (fieldC w)
        | 2#2 => .sla (fieldW w) (fieldC w)
        | 3#2 => .src (fieldW w) (fieldC w)
    | 3#2 => .illegal0C00 (w.extractLsb' 0 10)

/-- 0x1000 to 0x1FFF: format II by bits 11-8 (R173). -/
def decodeJump (w : Word) : Instr :=
  match w.extractLsb' 8 4 with
    | 0x0#4 => .jmp (fieldDisp w)
    | 0x1#4 => .jlt (fieldDisp w)
    | 0x2#4 => .jle (fieldDisp w)
    | 0x3#4 => .jeq (fieldDisp w)
    | 0x4#4 => .jhe (fieldDisp w)
    | 0x5#4 => .jgt (fieldDisp w)
    | 0x6#4 => .jne (fieldDisp w)
    | 0x7#4 => .jnc (fieldDisp w)
    | 0x8#4 => .joc (fieldDisp w)
    | 0x9#4 => .jno (fieldDisp w)
    | 0xA#4 => .jl (fieldDisp w)
    | 0xB#4 => .jh (fieldDisp w)
    | 0xC#4 => .jop (fieldDisp w)
    | 0xD#4 => .sbo (fieldDisp w)
    | 0xE#4 => .sbz (fieldDisp w)
    | _ => .tb (fieldDisp w)  -- 0xF

/-- 0x2000 to 0x2FFF: COC, CZC, XOR, XOP by bits 11-10 (R174). -/
def decode2000 (w : Word) : Instr :=
  match w.extractLsb' 10 2 with
    | 0#2 => .coc (sourceGA w) (fieldD w)
    | 1#2 => .czc (sourceGA w) (fieldD w)
    | 2#2 => .xor (sourceGA w) (fieldD w)
    | 3#2 => .xop (sourceGA w) (fieldD w)

/-- 0x3000 to 0x3FFF: LDCR, STCR, MPY, DIV by bits 11-10 (R174, R175). -/
def decode3000 (w : Word) : Instr :=
  match w.extractLsb' 10 2 with
    | 0#2 => .ldcr (sourceGA w) (fieldD w)
    | 1#2 => .stcr (sourceGA w) (fieldD w)
    | 2#2 => .mpy (sourceGA w) (fieldD w)
    | 3#2 => .div (sourceGA w) (fieldD w)

/-- The instruction an instruction word stands for (R170, the opcode map of R186). Don't-care bits are dropped (R187). -/
def decodeWord (w : Word) : Instr :=
  match w.extractLsb' 12 4 with
    | 0x0#4 => decodeShort w
    | 0x1#4 => decodeJump w
    | 0x2#4 => decode2000 w
    | 0x3#4 => decode3000 w
    | 0x4#4 => .szc (sourceGA w) (destGA w)
    | 0x5#4 => .szcb (sourceGA w) (destGA w)
    | 0x6#4 => .s (sourceGA w) (destGA w)
    | 0x7#4 => .sb (sourceGA w) (destGA w)
    | 0x8#4 => .c (sourceGA w) (destGA w)
    | 0x9#4 => .cb (sourceGA w) (destGA w)
    | 0xA#4 => .a (sourceGA w) (destGA w)
    | 0xB#4 => .ab (sourceGA w) (destGA w)
    | 0xC#4 => .mov (sourceGA w) (destGA w)
    | 0xD#4 => .movb (sourceGA w) (destGA w)
    | 0xE#4 => .soc (sourceGA w) (destGA w)
    | _ => .socb (sourceGA w) (destGA w)  -- 0xF

/-- Decode from bytes as memory holds them, most significant byte first (20_memory.md R101, R102). Answers the
instruction and the bytes after its first word, which are its extension words if it has any (R171). -/
def decode : List Byte → Except DecodeError (Instr × List Byte)
  | hi :: lo :: rest => .ok (decodeWord (hi ++ lo), rest)
  | [_] => .error .truncated
  | [] => .error .truncated

/-- The bytes of a word in memory order (R101). -/
def wordBytes (w : Word) : List Byte := [w.extractLsb' 8 8, w.extractLsb' 0 8]

/-- Word k of an instruction given as one number whose bit 0 is the least significant bit of its first word; bits at and
above `nbits` are 0. -/
def tableWordAt (nbits w k : Nat) : Word := BitVec.ofNat 16 ((w % 2 ^ nbits) / 2 ^ (16 * k))

/-- The three words of the longest instruction (R171), laid out as memory holds them. -/
def tableBytes (nbits w : Nat) : List Byte :=
  wordBytes (tableWordAt nbits w 0) ++ wordBytes (tableWordAt nbits w 1) ++ wordBytes (tableWordAt nbits w 2)

/-- What the decoder reads from an instruction numbered as spec/opcode_table.json numbers it. -/
def decodeTableWord (nbits w : Nat) : Option Instr :=
  match decode (tableBytes nbits w) with
  | .ok (i, _) => some i
  | .error _ => none

/-! ## The encoder -/

/-- The mode field T of R180. -/
def GA.modeField : GA → BitVec 2
  | .reg _ => 0#2
  | .ind _ => 1#2
  | .sym => 2#2
  | .idx _ => 2#2
  | .inc _ => 3#2

/-- The register field of R180. -/
def GA.regField : GA → Reg
  | .reg n => n
  | .ind n => n
  | .sym => 0#4
  | .idx n => n
  | .inc n => n

/-- Format I (R172): op:B, Td, D, Ts, S. -/
def encodeI (op : BitVec 4) (src dst : GA) : Word :=
  op ++ dst.modeField ++ dst.regField ++ src.modeField ++ src.regField

/-- Format II (R173): opcode, disp. -/
def encodeII (op : BitVec 8) (disp : Byte) : Word := op ++ disp

/-- Formats III, IV and IX (R174, R175): opcode, D or C, Ts, S. -/
def encodeIII (op : BitVec 6) (g : GA) (d : BitVec 4) : Word := op ++ d ++ g.modeField ++ g.regField

/-- Format V (R176): opcode, C, W. -/
def encodeV (op : BitVec 8) (w : Reg) (c : BitVec 4) : Word := op ++ c ++ w

/-- Format VI (R177): opcode, Ts, S. -/
def encodeVI (op : BitVec 10) (g : GA) : Word := op ++ g.modeField ++ g.regField

/-- Formats VII and VIII (R178, R179): opcode, ignored bits written as 0, W where there is one. -/
def encodeVIII (op : BitVec 11) (w : Reg) : Word := op ++ 0#1 ++ w

/-- The instruction word of an instruction, its don't-care bits 0 (R172 to R179). -/
def encodeWord : Instr → Word
  | .szc src dst => encodeI 0x4#4 src dst
  | .szcb src dst => encodeI 0x5#4 src dst
  | .s src dst => encodeI 0x6#4 src dst
  | .sb src dst => encodeI 0x7#4 src dst
  | .c src dst => encodeI 0x8#4 src dst
  | .cb src dst => encodeI 0x9#4 src dst
  | .a src dst => encodeI 0xA#4 src dst
  | .ab src dst => encodeI 0xB#4 src dst
  | .mov src dst => encodeI 0xC#4 src dst
  | .movb src dst => encodeI 0xD#4 src dst
  | .soc src dst => encodeI 0xE#4 src dst
  | .socb src dst => encodeI 0xF#4 src dst
  | .jmp d => encodeII 0x10#8 d
  | .jlt d => encodeII 0x11#8 d
  | .jle d => encodeII 0x12#8 d
  | .jeq d => encodeII 0x13#8 d
  | .jhe d => encodeII 0x14#8 d
  | .jgt d => encodeII 0x15#8 d
  | .jne d => encodeII 0x16#8 d
  | .jnc d => encodeII 0x17#8 d
  | .joc d => encodeII 0x18#8 d
  | .jno d => encodeII 0x19#8 d
  | .jl d => encodeII 0x1A#8 d
  | .jh d => encodeII 0x1B#8 d
  | .jop d => encodeII 0x1C#8 d
  | .sbo d => encodeII 0x1D#8 d
  | .sbz d => encodeII 0x1E#8 d
  | .tb d => encodeII 0x1F#8 d
  | .coc g d => encodeIII 0x08#6 g d
  | .czc g d => encodeIII 0x09#6 g d
  | .xor g d => encodeIII 0x0A#6 g d
  | .xop g n => encodeIII 0x0B#6 g n
  | .ldcr g c => encodeIII 0x0C#6 g c
  | .stcr g c => encodeIII 0x0D#6 g c
  | .mpy g d => encodeIII 0x0E#6 g d
  | .div g d => encodeIII 0x0F#6 g d
  | .sra w c => encodeV 0x08#8 w c
  | .srl w c => encodeV 0x09#8 w c
  | .sla w c => encodeV 0x0A#8 w c
  | .src w c => encodeV 0x0B#8 w c
  | .blwp g => encodeVI 0x10#10 g
  | .b g => encodeVI 0x11#10 g
  | .x g => encodeVI 0x12#10 g
  | .clr g => encodeVI 0x13#10 g
  | .neg g => encodeVI 0x14#10 g
  | .inv g => encodeVI 0x15#10 g
  | .inc g => encodeVI 0x16#10 g
  | .inct g => encodeVI 0x17#10 g
  | .dec g => encodeVI 0x18#10 g
  | .dect g => encodeVI 0x19#10 g
  | .bl g => encodeVI 0x1A#10 g
  | .swpb g => encodeVI 0x1B#10 g
  | .seto g => encodeVI 0x1C#10 g
  | .abs g => encodeVI 0x1D#10 g
  | .li w => encodeVIII 0x10#11 w
  | .ai w => encodeVIII 0x11#11 w
  | .andi w => encodeVIII 0x12#11 w
  | .ori w => encodeVIII 0x13#11 w
  | .ci w => encodeVIII 0x14#11 w
  | .stwp w => encodeVIII 0x15#11 w
  | .stst w => encodeVIII 0x16#11 w
  | .lwpi => encodeVIII 0x17#11 0#4
  | .limi => encodeVIII 0x18#11 0#4
  | .idle => encodeVIII 0x1A#11 0#4
  | .rset => encodeVIII 0x1B#11 0#4
  | .rtwp => encodeVIII 0x1C#11 0#4
  | .ckon => encodeVIII 0x1D#11 0#4
  | .ckof => encodeVIII 0x1E#11 0#4
  | .lrex => encodeVIII 0x1F#11 0#4
  | .illegal0000 low => 0#7 ++ low
  | .illegal0320 low => 0x19#11 ++ low
  | .illegal0780 low => 0x0F#9 ++ low
  | .illegal0C00 low => 0x03#6 ++ low

/-- The words of an instruction that its decoding determines: the first one. Its extension words are operands the program
stores after it (R171; `Instr.extensionWords` of them). -/
def encode (i : Instr) : List Word := [encodeWord i]

/-- The same as bytes in memory order (R101). -/
def encodeBytes (i : Instr) : List Byte := (encode i).flatMap wordBytes

/-- How many extension or immediate words follow the first word (R171). An X fetches more if the word it executes does
(45_single_operand.md R332). -/
def Instr.extensionWords : Instr → Nat
  | .szc gs gd | .szcb gs gd | .s gs gd | .sb gs gd | .c gs gd | .cb gs gd
  | .a gs gd | .ab gs gd | .mov gs gd | .movb gs gd | .soc gs gd | .socb gs gd =>
    gs.extensionWords + gd.extensionWords
  | .coc gs _ | .czc gs _ | .xor gs _ | .xop gs _ | .mpy gs _ | .div gs _ | .ldcr gs _ => gs.extensionWords
  | .stcr gd _ => gd.extensionWords
  | .blwp g | .b g | .x g | .clr g | .neg g | .inv g | .inc g | .inct g | .dec g | .dect g | .bl g | .swpb g
  | .seto g | .abs g => g.extensionWords
  | .li _ | .ai _ | .andi _ | .ori _ | .ci _ | .lwpi | .limi => 1
  | .jmp _ | .jlt _ | .jle _ | .jeq _ | .jhe _ | .jgt _ | .jne _ | .jnc _ | .joc _ | .jno _ | .jl _ | .jh _ | .jop _
  | .sbo _ | .sbz _ | .tb _ | .sra _ _ | .srl _ _ | .sla _ _ | .src _ _ | .stwp _ | .stst _
  | .idle | .rset | .rtwp | .ckon | .ckof | .lrex
  | .illegal0000 _ | .illegal0320 _ | .illegal0780 _ | .illegal0C00 _ => 0

/-- The match and mask of an instruction's row of spec/opcode_table.json (R170, R172 to R179, R186). -/
def Instr.row : Instr → Word × Word
  | .szc _ _ => (0x4000, 0xF000)
  | .szcb _ _ => (0x5000, 0xF000)
  | .s _ _ => (0x6000, 0xF000)
  | .sb _ _ => (0x7000, 0xF000)
  | .c _ _ => (0x8000, 0xF000)
  | .cb _ _ => (0x9000, 0xF000)
  | .a _ _ => (0xA000, 0xF000)
  | .ab _ _ => (0xB000, 0xF000)
  | .mov _ _ => (0xC000, 0xF000)
  | .movb _ _ => (0xD000, 0xF000)
  | .soc _ _ => (0xE000, 0xF000)
  | .socb _ _ => (0xF000, 0xF000)
  | .jmp _ => (0x1000, 0xFF00)
  | .jlt _ => (0x1100, 0xFF00)
  | .jle _ => (0x1200, 0xFF00)
  | .jeq _ => (0x1300, 0xFF00)
  | .jhe _ => (0x1400, 0xFF00)
  | .jgt _ => (0x1500, 0xFF00)
  | .jne _ => (0x1600, 0xFF00)
  | .jnc _ => (0x1700, 0xFF00)
  | .joc _ => (0x1800, 0xFF00)
  | .jno _ => (0x1900, 0xFF00)
  | .jl _ => (0x1A00, 0xFF00)
  | .jh _ => (0x1B00, 0xFF00)
  | .jop _ => (0x1C00, 0xFF00)
  | .sbo _ => (0x1D00, 0xFF00)
  | .sbz _ => (0x1E00, 0xFF00)
  | .tb _ => (0x1F00, 0xFF00)
  | .coc _ _ => (0x2000, 0xFC00)
  | .czc _ _ => (0x2400, 0xFC00)
  | .xor _ _ => (0x2800, 0xFC00)
  | .xop _ _ => (0x2C00, 0xFC00)
  | .ldcr _ _ => (0x3000, 0xFC00)
  | .stcr _ _ => (0x3400, 0xFC00)
  | .mpy _ _ => (0x3800, 0xFC00)
  | .div _ _ => (0x3C00, 0xFC00)
  | .sra _ _ => (0x0800, 0xFF00)
  | .srl _ _ => (0x0900, 0xFF00)
  | .sla _ _ => (0x0A00, 0xFF00)
  | .src _ _ => (0x0B00, 0xFF00)
  | .blwp _ => (0x0400, 0xFFC0)
  | .b _ => (0x0440, 0xFFC0)
  | .x _ => (0x0480, 0xFFC0)
  | .clr _ => (0x04C0, 0xFFC0)
  | .neg _ => (0x0500, 0xFFC0)
  | .inv _ => (0x0540, 0xFFC0)
  | .inc _ => (0x0580, 0xFFC0)
  | .inct _ => (0x05C0, 0xFFC0)
  | .dec _ => (0x0600, 0xFFC0)
  | .dect _ => (0x0640, 0xFFC0)
  | .bl _ => (0x0680, 0xFFC0)
  | .swpb _ => (0x06C0, 0xFFC0)
  | .seto _ => (0x0700, 0xFFC0)
  | .abs _ => (0x0740, 0xFFC0)
  | .li _ => (0x0200, 0xFFE0)
  | .ai _ => (0x0220, 0xFFE0)
  | .andi _ => (0x0240, 0xFFE0)
  | .ori _ => (0x0260, 0xFFE0)
  | .ci _ => (0x0280, 0xFFE0)
  | .stwp _ => (0x02A0, 0xFFE0)
  | .stst _ => (0x02C0, 0xFFE0)
  | .lwpi => (0x02E0, 0xFFE0)
  | .limi => (0x0300, 0xFFE0)
  | .idle => (0x0340, 0xFFE0)
  | .rset => (0x0360, 0xFFE0)
  | .rtwp => (0x0380, 0xFFE0)
  | .ckon => (0x03A0, 0xFFE0)
  | .ckof => (0x03C0, 0xFFE0)
  | .lrex => (0x03E0, 0xFFE0)
  | .illegal0000 _ => (0x0000, 0xFE00)
  | .illegal0320 _ => (0x0320, 0xFFE0)
  | .illegal0780 _ => (0x0780, 0xFF80)
  | .illegal0C00 _ => (0x0C00, 0xFC00)

end Sys2Proof
end

