-- ==== Sys2Proof/Config.lean ====
section
/-! DEFINITION. What an implementation fixes, and the free values. The named parameters of 00_scope.md R9 are DATA of a
machine descriptor (70_reset_and_hazards.md R470): State holds one, so a statement about every state is a statement about
every value of every parameter (assumption 2). A parameter that is a function is held as the finitely many points where
it differs from the spec's informative one; its domain is finite, so every function is reached that way. The values that
`draw()` leaves free (R15) are opaque constants applied to a counter of State (assumption 4). -/

namespace Sys2Proof

/-- A ROM image: the bytes that are not 0, by offset. -/
abbrev Image := List Host.Cell

/-- The region tags of 20_memory.md R111. -/
inductive RegionTag where
  | consoleRom | scratch | expRam | sound | speech | cartBanked | cartPlain | vdpRd | vdpWr | disk | dsr | mapperRegs
  | grom | unused
deriving DecidableEq, Repr

/-- One line of `REGION_MAP_INIT` (R112): granules `first` to `last` carry `tag`. -/
structure TagRun where
  first : Nat
  last : Nat
  tag : RegionTag
deriving DecidableEq, Repr

/-- One piece of `NINE901_DECODE` (R140): CRU address a from `first` to `last` is pin (pin0 + (a - first)) mod 32. -/
structure PinWindow where
  first : Nat
  last : Nat
  pin0 : Nat
deriving DecidableEq, Repr

/-- What `BASE_CYCLES` may depend on beside the instruction word: the resolved operands (40_operands.md R211,
70_reset_and_hazards.md R520). -/
inductive CostOutcome where
  /-- The cost depends on the instruction alone. -/
  | plain
  /-- A jump that was taken. -/
  | taken
  /-- A jump that was not taken. -/
  | notTaken
  /-- ABS of a negative operand. -/
  | negative
  /-- ABS of an operand that is not negative. -/
  | nonNegative
  /-- DIV that overflowed. -/
  | overflow
  /-- DIV of hi:lo by the divisor. -/
  | divided (hi lo divisor : Word)
  /-- A shift by `count`. -/
  | shifted (count : Nat)
deriving DecidableEq, Repr

/-- The argument of `BASE_CYCLES`: an instruction with its resolved operands, or an interrupt entry (60_exceptions.md R414). -/
inductive CostForm where
  | instr (i : Instr) (o : CostOutcome)
  | interrupt
deriving DecidableEq, Repr

/-- The machine descriptor: every parameter of 00_scope.md R9 that reset takes (70_reset_and_hazards.md R470). -/
structure Descriptor where
  /-- `SAMS_BANKS`, N. -/
  banks : Nat
  /-- `SAMS_SWAPPABLE`. -/
  swappable : List (Fin 16)
  /-- `SAMS_INDEX`, where it differs from the informative w[15:8]. -/
  samsIndexTable : List (Word × Nat)
  /-- `SAMS_REQ_INIT`. -/
  samsReqInit : Vector Word 16
  /-- `SAMS_CRU_BASE`. -/
  samsCruBase : CruAddr
  /-- `REGION_MAP_INIT`; a granule in no run is UNUSED. -/
  regionMap : List TagRun
  /-- The tags for which `IS_8BIT` holds. -/
  eightBit : List RegionTag
  /-- `WAIT8`. -/
  wait8 : Nat
  /-- `BASE_CYCLES`, where it differs from the informative table of 70_reset_and_hazards.md R520 and R521. -/
  cycleTable : List (CostForm × Nat)
  /-- `INVALID_CYCLES`. -/
  invalidCycles : Nat
  /-- `CPU_INT_LEVEL`. -/
  cpuIntLevel : Nat
  /-- `NINE901_DECODE`; an address in no window selects no pin. -/
  nine901 : List PinWindow
  /-- `IDLE_QUANTUM`. -/
  idleQuantum : Nat
  /-- `CYCLES_PER_FRAME`. -/
  cyclesPerFrame : Nat
  /-- `READ_BEFORE_WRITE`. -/
  readBeforeWrite : Bool
  /-- `CART_MASK`. -/
  cartMask : Word
  /-- `CONSOLE_ROM`, 8 KiB. -/
  consoleRom : Image
  /-- `DSR_ROM`, one image per enabled peripheral. No rule reads them: DSR is a collaborator region (20_memory.md R121). -/
  dsrRoms : List Image
  /-- `CART_ROM`, `cartBanks` banks of 8 KiB. -/
  cartRom : Image
  /-- How many banks `CART_ROM` has. -/
  cartBanks : Nat
  /-- `SAVE_VERSION`. -/
  saveVersion : Nat
  /-- `SAVE_RLE_CAPACITY`; none is its default, ceil(3M/2). -/
  rleCapacity : Option Nat
deriving DecidableEq, Repr

/-- A joystick descriptor (10_state.md R60): X axis, Y axis, button. Host input. -/
structure Joystick where
  xAxis : Int
  yAxis : Int
  button : Bool
deriving DecidableEq, Repr

/-- `draw()` of a byte, the n-th draw (R15; 20_memory.md R119, R121). Free. -/
opaque Config.drawByte : Nat → Byte

/-- `draw()` of a word, the n-th draw (R15; 20_memory.md R119, R121). Free. -/
opaque Config.drawWord : Nat → Word

/-- `draw()` of one bit, the n-th draw: a CRU read that nothing decodes (20_memory.md R140). Free. -/
opaque Config.drawBit : Nat → Bool

/-- The oracle `KEY_MATRIX` (60_exceptions.md R450) at the n-th draw: whether the position (column, row) is pressed, given
the host's key table, its two joystick descriptors and the caps flag. Free, so two reads of one row may differ. -/
opaque Config.keyMatrix : Nat → List Nat → Joystick → Joystick → (column row : Nat) → (caps : Bool) → Bool

end Sys2Proof
end

