-- ==== Sys2Proof/Machine/Memory.lean ====
section
/-! DEFINITION. Sparse tables in ONE canonical form: a list of (key, value) pairs, keys strictly rising, no entry equal to
what an unlisted key reads as. RAM is one (a byte by offset, unlisted bytes 0: assumption 1), and so is the classifier
table (a tag by granule, unlisted granules as `REGION_MAP_INIT` has them). -/

namespace Sys2Proof.Machine

/-- What a table holds at `k`; `base` says what unlisted keys hold. -/
def sparseGet {α : Type} (base : Nat → α) : List (Nat × α) → Nat → α
  | [], k => base k
  | (j, v) :: t, k => if j = k then v else sparseGet base t k

/-- A table with `v` at `k`. Writing what an unlisted key holds removes the entry. -/
def sparseSet {α : Type} [DecidableEq α] (base : Nat → α) : List (Nat × α) → Nat → α → List (Nat × α)
  | [], k, v => if v = base k then [] else [(k, v)]
  | (j, u) :: t, k, v =>
    if k < j then
      if v = base k then (j, u) :: t else (k, v) :: (j, u) :: t
    else if k = j then
      if v = base k then t else (k, v) :: t
    else (j, u) :: sparseSet base t k v

/-- The canonical form. -/
abbrev sparseWf {α : Type} (base : Nat → α) (m : List (Nat × α)) : Prop :=
  m.Pairwise (fun p q => p.1 < q.1) ∧ ∀ p ∈ m, p.2 ≠ base p.1

/-- RAM, or a ROM image, by offset. -/
abbrev Memory := List Host.Cell

/-- What an unlisted byte reads as: 0. The spec leaves power-on contents free (10_state.md R68). DESIGN CHOICE, unsafe:
assumption 1. -/
def blankByte (_ : Nat) : Byte := 0

/-- The byte at offset `k`. -/
def Memory.read (m : Memory) (k : Nat) : Byte := sparseGet blankByte m k

/-- RAM with byte `v` at offset `k`. -/
def Memory.write (m : Memory) (k : Nat) (v : Byte) : Memory := sparseSet blankByte m k v

/-- The canonical form of RAM. -/
abbrev Memory.wf (m : Memory) : Prop := sparseWf blankByte m

/-- RAM that holds the given bytes from offset `k` on. -/
def Memory.ofBytes : Nat → List Byte → Memory
  | _, [] => []
  | k, b :: t => if b = blankByte k then Memory.ofBytes (k + 1) t else (k, b) :: Memory.ofBytes (k + 1) t

/-- The first `n` bytes of RAM from offset `k`. -/
def Memory.toBytes (m : Memory) (k : Nat) : Nat → List Byte
  | 0 => []
  | n + 1 => m.read k :: Memory.toBytes m (k + 1) n

end Sys2Proof.Machine
end

