-- ==== Sys2Proof/Machine/Parameters.lean ====
section
/-! DEFINITION. What the parameters of the machine descriptor mean (00_scope.md R9), and the stock descriptor, which takes
the spec's default for each, its informative value where it gives no default (assumptions 2, 3 and 12). -/

namespace Sys2Proof.Machine

/-- `REGION_MAP_INIT` at granule `g`: the first run that holds it. -/
def regionAt : List TagRun → Nat → RegionTag
  | [], _ => .unused
  | r :: t, g => if r.first ≤ g ∧ g ≤ r.last then r.tag else regionAt t g

/-- The initial tag of a granule (20_memory.md R112). -/
def regionInit (md : Descriptor) (g : Nat) : RegionTag := regionAt md.regionMap g

/-- `IS_8BIT` (20_memory.md R112, R122). -/
def is8Bit (md : Descriptor) (t : RegionTag) : Bool := md.eightBit.contains t

/-- `SAMS_INDEX` (10_state.md R62): w[15:8] but where the descriptor says otherwise. -/
def samsIndex (md : Descriptor) (w : Word) : Nat := (md.samsIndexTable.lookup w).getD (w.extractLsb' 8 8).toNat

/-- `NINE901_DECODE` (20_memory.md R140): the pin a CRU address selects. -/
def pinAt : List PinWindow → Nat → Option Nat
  | [], _ => none
  | p :: t, a => if p.first ≤ a ∧ a ≤ p.last then some ((p.pin0 + (a - p.first)) % 32) else pinAt t a

/-- The pin a CRU address selects on this machine. -/
def pinOf (md : Descriptor) (a : CruAddr) : Option Nat := pinAt md.nine901 a.toNat

/-- How many 32-bit words the pool has: M of 70_reset_and_hazards.md R496. -/
def poolWordCount (md : Descriptor) : Nat := md.banks * 1024

/-- `SAVE_RLE_CAPACITY`, by default ceil(3M/2) (R496). -/
def rleCapacityOf (md : Descriptor) : Nat := md.rleCapacity.getD ((3 * poolWordCount md + 1) / 2)

/-- Every granule of region `q` that the map tags EXPRAM lies in a swappable region (20_memory.md R117). -/
def expRamSwappable (md : Descriptor) (q : Fin 16) : Bool :=
  md.swappable.contains q || (List.range' (q.val * 256) 256).all (fun g => regionInit md g != .expRam)

/-- The constraints the spec puts on parameters (93_implementation_defined.md 1.5): N >= 16, every EXPRAM region swappable
(20_memory.md R117) in the map that results, a CRU base up to 0xFFE, a level from 1 to 15, positive quanta. That a descriptor
outside them is refused is assumption 17. -/
def descriptorOk (md : Descriptor) : Bool :=
  decide (16 ≤ md.banks)
  && (List.finRange 16).all (expRamSwappable md)
  && decide (md.samsCruBase ≤ 0xFFE)
  && decide (1 ≤ md.cpuIntLevel) && decide (md.cpuIntLevel ≤ 15)
  && decide (0 < md.idleQuantum) && decide (0 < md.cyclesPerFrame)

/-! ## Cycle costs -/

/-- The address-mode extra of a word operand (70_reset_and_hazards.md R521, informative). -/
def modeExtraWord : GA → Nat
  | .reg _ => 0
  | .ind _ => 4
  | .sym => 8
  | .idx _ => 8
  | .inc _ => 8

/-- The address-mode extra of a byte operand (R521, informative). -/
def modeExtraByte : GA → Nat
  | .reg _ => 0
  | .ind _ => 4
  | .sym => 8
  | .idx _ => 8
  | .inc _ => 6

/-- The effective count of LDCR and STCR (44_cru_multi_shift.md R310). -/
def cruCount (c : BitVec 4) : Nat := if c = 0#4 then 16 else c.toNat

/-- The mode extra of a CRU transfer's operand, a byte for counts up to 8 (R310). -/
def modeExtraCru (g : GA) (c : BitVec 4) : Nat := if cruCount c ≤ 8 then modeExtraByte g else modeExtraWord g

/-- STCR's informative cost (R520). -/
def stcrCycles (c : Nat) : Nat := if c ≤ 7 then 42 else if c = 8 then 44 else if c ≤ 15 then 58 else 60

/-- A shift's informative cost (R520): count field, then the count in effect. -/
def shiftCycles (c : BitVec 4) : CostOutcome → Nat
  | .shifted n => if c = 0#4 then 20 + 2 * n else 12 + 2 * n
  | .plain | .taken | .notTaken | .negative | .nonNegative | .overflow | .divided _ _ _ => 12

/-- A jump's informative cost (R520). -/
def jumpCycles : CostOutcome → Nat
  | .taken => 10
  | .plain | .notTaken | .negative | .nonNegative | .overflow | .divided _ _ _ | .shifted _ => 8

/-- ABS's informative cost (R520). -/
def absCycles : CostOutcome → Nat
  | .negative => 14
  | .plain | .taken | .notTaken | .nonNegative | .overflow | .divided _ _ _ | .shifted _ => 12

/-- DIV's informative cost (R520). R520 gives 92 to 124 for a division that completes; 92 is taken (assumption 12). -/
def divCycles : CostOutcome → Nat
  | .overflow => 16
  | .plain | .taken | .notTaken | .negative | .nonNegative | .divided _ _ _ | .shifted _ => 92

/-- The informative `BASE_CYCLES` of R520 and R521. X counts 8 less the 4 of the fetch that its executed word does not
make. An ILLEGAL word costs `INVALID_CYCLES` instead (46_immediate_control.md R380). -/
def stockCycles (i : Instr) (o : CostOutcome) : Nat :=
  match i with
  | .szc p q | .s p q | .c p q | .a p q | .mov p q | .soc p q => 14 + modeExtraWord p + modeExtraWord q
  | .szcb p q | .sb p q | .cb p q | .ab p q | .movb p q | .socb p q => 14 + modeExtraByte p + modeExtraByte q
  | .jmp _ | .jlt _ | .jle _ | .jeq _ | .jhe _ | .jgt _ | .jne _ | .jnc _ | .joc _ | .jno _ | .jl _ | .jh _ | .jop _ =>
    jumpCycles o
  | .sbo _ | .sbz _ | .tb _ => 12
  | .coc p _ | .czc p _ | .xor p _ => 14 + modeExtraWord p
  | .xop p _ => 36 + modeExtraWord p
  | .mpy p _ => 52 + modeExtraWord p
  | .div p _ => divCycles o + modeExtraWord p
  | .ldcr p c => 20 + 2 * cruCount c + modeExtraCru p c
  | .stcr p c => stcrCycles (cruCount c) + modeExtraCru p c
  | .sra _ c | .srl _ c | .sla _ c | .src _ c => shiftCycles c o
  | .blwp p => 26 + modeExtraWord p
  | .b p => 8 + modeExtraWord p
  | .x p => 4 + modeExtraWord p
  | .clr p | .seto p | .inv p | .inc p | .inct p | .dec p | .dect p | .swpb p => 10 + modeExtraWord p
  | .neg p => 12 + modeExtraWord p
  | .bl p => 12 + modeExtraWord p
  | .abs p => absCycles o + modeExtraWord p
  | .li _ => 12
  | .ai _ | .andi _ | .ori _ | .ci _ => 14
  | .stwp _ | .stst _ => 8
  | .lwpi => 10
  | .limi => 16
  | .rtwp => 14
  | .idle | .rset | .ckon | .ckof | .lrex => 12
  | .illegal0000 _ | .illegal0320 _ | .illegal0780 _ | .illegal0C00 _ => 6

/-- The informative cost of a form; an interrupt entry is 22 (R520). -/
def stockFormCycles : CostForm → Nat
  | .instr i o => stockCycles i o
  | .interrupt => 22

/-- `BASE_CYCLES` (R519): the informative cost but where the descriptor says otherwise. -/
def baseCycles (md : Descriptor) (f : CostForm) : Nat := (md.cycleTable.lookup f).getD (stockFormCycles f)

/-! ## The stock descriptor -/

/-- The TI-99/4A map of 20_memory.md R112. The cartridge window is CART_BANKED when the cartridge has more than one bank. -/
def stockRegionMap (cartBanks : Nat) : List TagRun :=
  [ ⟨0x800, 0x83F, .scratch⟩, ⟨0x000, 0x1FF, .consoleRom⟩, ⟨0xA00, 0xFFF, .expRam⟩, ⟨0x200, 0x3FF, .expRam⟩,
    ⟨0x400, 0x5FF, .dsr⟩, ⟨0x600, 0x7FF, if 1 < cartBanks then .cartBanked else .cartPlain⟩,
    ⟨0x840, 0x87F, .sound⟩, ⟨0x880, 0x8BF, .vdpRd⟩, ⟨0x8C0, 0x8FF, .vdpWr⟩, ⟨0x900, 0x97F, .speech⟩,
    ⟨0x980, 0x9FF, .grom⟩ ]

/-- `IS_8BIT` of R112: every tag but CONSOLE_ROM and SCRATCH. -/
def stockEightBit : List RegionTag :=
  [.expRam, .sound, .speech, .cartBanked, .cartPlain, .vdpRd, .vdpWr, .disk, .dsr, .mapperRegs, .grom, .unused]

/-- The console ROM of the stock machine: the level-0 vector (0x83E0, 0x0024) of 70_reset_and_hazards.md R472 and nothing
else. PRESUMED, unsafe: assumption 3. -/
def stockConsoleRom : Image := [(0, 0x83), (1, 0xE0), (3, 0x24)]

/-- The parameters of the machine that `State.reset` describes (assumption 2). -/
def Descriptor.stock : Descriptor where
  banks := 64
  swappable := [2, 3, 10, 11, 12, 13, 14, 15]
  samsIndexTable := []
  samsReqInit := #v[0x0000, 0x0100, 0x0200, 0x0300, 0x0400, 0x0500, 0x0600, 0x0700,
                    0x0800, 0x0900, 0x0A00, 0x0B00, 0x0C00, 0x0D00, 0x0E00, 0x0F00]
  samsCruBase := 0xF00
  regionMap := stockRegionMap 1
  eightBit := stockEightBit
  wait8 := 4
  cycleTable := []
  invalidCycles := 6
  cpuIntLevel := 1
  nine901 := [⟨0x000, 0x3FF, 0⟩]
  idleQuantum := 64
  cyclesPerFrame := 50000
  readBeforeWrite := false
  cartMask := 0
  consoleRom := stockConsoleRom
  dsrRoms := []
  cartRom := []
  cartBanks := 1
  saveVersion := 1
  rleCapacity := none

end Sys2Proof.Machine
end

