-- ==== Sys2Proof/Machine/State.lean ====
section
/-! DEFINITION. The machine's state as plain data: everything spec/10_state.md gives it, the scheduler and host interface
of spec/70_reset_and_hazards.md, and the model's own input and free-value fields. The reset values are R68's; those R68
leaves open are named in assumptions 1, 2, 3, 5, 6, 7, 8, 13 and 14. -/

namespace Sys2Proof.Machine

/-- Why a step stops for good. Nothing does: every word, operand and address has a defined effect and no condition is fatal
(60_exceptions.md R401), so there is no constructor. Safe. -/
inductive Fault where
deriving DecidableEq, Repr

/-- Why an instruction has no meaning here. -/
inductive Refusal where
  /-- Raised by an arm of `exec` whose instruction has no meaning yet; no arm does. Safe. -/
  | notModelled (mnemonic : String)
deriving DecidableEq, Repr

/-- The run state (R56). -/
inductive RunState where
  | halted | running | idleWaiting
deriving DecidableEq, Repr

/-- The external instructions that log an event (46_immediate_control.md R376). -/
inductive ExternalOp where
  | rset | ckon | ckof | lrex
deriving DecidableEq, Repr

/-- A record of the event log (R58). -/
inductive Event where
  | invalidOpcode (pc word : Word)
  | unsupportedExtendedOperation (pc : Word) (op : ExternalOp)
  | devRead (tag : RegionTag) (addr : Word) (n : Nat)
  | devWrite (tag : RegionTag) (addr : Word) (n : Nat) (v : Word)
  | cruOut (a : CruAddr) (b : Bool)
deriving DecidableEq, Repr

/-- The error classes of 60_exceptions.md R400. -/
inductive ErrorClass where
  | invalidOpcode | unsupportedExtendedOperation | saveStateVersionMismatch | saveStateIOFailure | bankIndexOutOfRange
deriving DecidableEq, Repr

/-- The interrupt/IO controller (R60). -/
structure Controller where
  /-- The mode bit: false is I/O mode, true is timer mode. -/
  timerMode : Bool
  /-- `req[p]`, bit p. -/
  req : BitVec 32
  /-- `en[p]`, bit p. -/
  en : BitVec 32
  /-- The 14-bit reload register. -/
  clock : BitVec 14
  /-- The 14-bit decrementer. -/
  dec : BitVec 14
  /-- The cycle count at which the sample period began. -/
  tBase : Nat
  /-- The last computed delta. -/
  tDelta : Nat
  /-- The column-select latch. -/
  col : BitVec 3
  /-- The caps-lock pass-through flag. -/
  caps : Bool
  /-- How many pins have request and enable both 1. -/
  intCount : Nat
deriving DecidableEq, Repr

/-- The host's key table and joysticks (R60, 60_exceptions.md R450). -/
structure Keyboard where
  /-- The virtual key codes that are down. -/
  keys : List Nat
  joy1 : Joystick
  joy2 : Joystick
deriving DecidableEq, Repr

/-- The banked-memory mapper (R62). N is `md.banks`. -/
structure Mapper where
  /-- `bank[r]`. -/
  bank : Vector Nat 16
  /-- `reqw[r]`. -/
  reqw : Vector Word 16
  visible : Bool
  active : Bool
  hwm : Nat
deriving DecidableEq, Repr

/-- The host's breakpoint predicate (70_reset_and_hazards.md R482). `custom k` stands for a predicate of the host's own, of
which nothing is known (assumption 16). -/
inductive Breakpoint where
  | never
  | always
  | pcIn (addrs : List Word)
  | custom (k : Nat)
deriving DecidableEq, Repr

/-- What a burst returns (70_reset_and_hazards.md R478). -/
inductive BurstStatus where
  | frame | breakpoint | halt
deriving DecidableEq, Repr

/-- A save-state image as its parts (70_reset_and_hazards.md R495); their field encoding is the open parameter
`SAVE_LAYOUT` (assumption 17). -/
structure SaveImage where
  version : Nat
  pc : Word
  wp : Word
  st : Word
  cycles : Nat
  run : RunState
  intPending : Bool
  noIntCheck : Bool
  cartBank : Nat
  io : Controller
  banks : Nat
  mapper : Mapper
  scratch : List Byte
  /-- The run-length code of the pool (R496). -/
  pool : List Nat
deriving DecidableEq, Repr

/-- The host's calls (70_reset_and_hazards.md R490), and its key and joystick input (60_exceptions.md R450). `ioOk` says
whether the host's file layer works. -/
inductive HostCall where
  | reset (md : Descriptor)
  | runOneBurst
  | raiseInterrupt (p : Nat)
  | clearInterrupt (p : Nat)
  | readMemory (a : Word) (n : Nat)
  | writeMemory (a : Word) (n : Nat) (v : Word)
  | readCru (a : CruAddr) (count : Nat)
  | writeCru (a : CruAddr) (count : Nat) (v : Word)
  | stop
  | setBreakpoint (bp : Breakpoint)
  | saveState (ioOk : Bool)
  | loadState (image : SaveImage) (ioOk : Bool)
  | setKeys (keys : List Nat)
  | setJoysticks (joy1 joy2 : Joystick)
deriving DecidableEq, Repr

/-- What a host call answers (70_reset_and_hazards.md R490, R497). -/
inductive HostReply where
  | done
  | value (v : Word)
  | refused
  | saved (image : SaveImage)
  | failed (e : ErrorClass)
deriving DecidableEq, Repr

/-- The scheduler's and host interface's state (R66; 70_reset_and_hazards.md R478). -/
structure Scheduler where
  burstStart : Nat
  stopReq : Bool
  bp : Breakpoint
  /-- A burst is under way. -/
  inBurst : Bool
  /-- No step of the burst has run yet: `first` of R478. -/
  first : Bool
  /-- What the last burst returned. -/
  status : Option BurstStatus
  /-- The host's calls to come (the model's own field, assumption 7). -/
  queue : List HostCall
  /-- What the last host call answered. -/
  reply : Option HostReply
deriving DecidableEq, Repr

/-- What a collaborator does when its region is accessed (20_memory.md R121): nothing, or raise or clear a pin
(assumption 6). -/
inductive DevReaction where
  | quiet
  | raise (p : Nat)
  | clear (p : Nat)
deriving DecidableEq, Repr

/-- What a collaborator does when a CRU bit that nothing in this block decodes is written (20_memory.md R113,
92_eei_decisions.md D34): nothing, or, where the bit is its enable bit, retag the granules `lo` to `hi` of the DSR window
between DSR and DISK (assumption 6). -/
inductive EnableReaction where
  | quiet
  | retag (disk : Bool) (lo hi : Nat)
deriving DecidableEq, Repr

/-- All that the rest of an X chain depends on and that an X may change: the word to execute next, PC, and what memory
reads as. A chain that comes to the same `XSeen` twice never ends (assumption 8). -/
structure XSeen where
  word : Word
  pc : Word
  cartBank : Nat
  mapper : Mapper
  pool : Memory
  scratch : Memory
  draws : Nat
deriving DecidableEq, Repr

/-- The search for a repetition in an X chain (assumption 8). -/
structure XMark where
  /-- How many steps the chain has been kept over. -/
  turns : Nat
  /-- What the chain was at the last of its turns 1, 2, 4, 8, ... -/
  seen : Option XSeen
  /-- The chain has come back to what it was: it is the hang of 60_exceptions.md R401. -/
  endless : Bool
deriving DecidableEq, Repr

/-- An X chain that is not at its end yet: the word to execute next, the base cycles the chain owes, and what has been
noted of it (45_single_operand.md R332; assumption 8). -/
structure XChain where
  word : Word
  owed : Nat
  mark : XMark
deriving DecidableEq, Repr

/-- The machine. Each field's rule and reset value stand in INVENTORY.md. -/
structure State where
  /-- The machine descriptor: parameters, no state of the block (R69). -/
  md : Descriptor
  pc : Word
  wp : Word
  st : Word
  /-- `pc0` of 40_operands.md R211: the address of the instruction being executed. -/
  instPc : Word
  cycles : Nat
  run : RunState
  intPending : Bool
  noIntCheck : Bool
  events : List Event
  cartBank : Nat
  io : Controller
  kbd : Keyboard
  mapper : Mapper
  /-- The classifier table: the granules whose tag is not `REGION_MAP_INIT`'s (R64). -/
  tags : List (Nat × RegionTag)
  /-- The mapper's backing pool, by offset (R65). -/
  pool : Memory
  /-- The console scratchpad, by offset (R65). -/
  scratch : Memory
  sched : Scheduler
  xChain : Option XChain
  /-- How many free values have been drawn (assumption 4). -/
  draws : Nat
  /-- The collaborators' reactions to come, to accesses of their regions (assumption 6). -/
  devInputs : List DevReaction
  /-- The collaborators' reactions to come, to writes of undecoded CRU bits (assumption 6). -/
  cruInputs : List EnableReaction
deriving DecidableEq, Repr

/-- The controller after reset (R68). -/
def Controller.reset : Controller where
  timerMode := false
  req := 0
  en := 0
  clock := 0
  dec := 0
  tBase := 0
  tDelta := 0
  col := 0
  caps := false
  intCount := 0

/-- A joystick that is centred and released. -/
def Joystick.released : Joystick := ⟨0, 0, false⟩

/-- A chain of which nothing has been seen. -/
def XMark.fresh : XMark := ⟨0, none, false⟩

/-- No key and no joystick pressed (R68 "all released"). -/
def Keyboard.released : Keyboard := ⟨[], Joystick.released, Joystick.released⟩

/-- The mapper after a reset with descriptor `md` (R68). -/
def Mapper.resetOf (md : Descriptor) : Mapper where
  bank := #v[0 % md.banks, 1 % md.banks, 2 % md.banks, 3 % md.banks, 4 % md.banks, 5 % md.banks, 6 % md.banks,
             7 % md.banks, 8 % md.banks, 9 % md.banks, 10 % md.banks, 11 % md.banks, 12 % md.banks, 13 % md.banks,
             14 % md.banks, 15 % md.banks]
  reqw := md.samsReqInit
  visible := false
  active := false
  hwm := 0

/-- The scheduler of a machine the host has just made: no burst, no call, no breakpoint (assumption 13). -/
def Scheduler.initial : Scheduler where
  burstStart := 0
  stopReq := false
  bp := .never
  inBurst := false
  first := false
  status := none
  queue := []
  reply := none

/-- The machine right after reset (R68, 70_reset_and_hazards.md R470), on the stock descriptor: WP and PC are its console
ROM's level-0 vector. `hostReset` is the reset sequence itself. -/
def State.reset : State where
  md := Descriptor.stock
  pc := 0x0024
  wp := 0x83E0
  st := 0x0000
  instPc := 0x0000
  cycles := 0
  run := .halted
  intPending := false
  noIntCheck := false
  events := []
  cartBank := 0
  io := Controller.reset
  kbd := Keyboard.released
  mapper := Mapper.resetOf Descriptor.stock
  tags := []
  pool := []
  scratch := []
  sched := Scheduler.initial
  xChain := none
  draws := 0
  devInputs := []
  cruInputs := []

end Sys2Proof.Machine
end

