-- ==== Sys2Proof/Machine/Bits.lean ====
section
/-! DEFINITION. Bit, byte and sign helpers (00_scope.md R10, R11). -/

namespace Sys2Proof.Machine

/-- `v` with bit `i` set to `b`. -/
def setBit {w : Nat} (v : BitVec w) (i : Nat) (b : Bool) : BitVec w :=
  if b then v ||| (1#w <<< i) else v &&& ~~~(1#w <<< i)

/-- `v & 0xFFFE`: an even address (10_state.md R52, R53; 20_memory.md R103). -/
def evenAddr (v : Word) : Word := v &&& 0xFFFE

/-- The most significant byte of a word (20_memory.md R101). -/
def hiByte (v : Word) : Byte := v.extractLsb' 8 8

/-- The least significant byte of a word (20_memory.md R101). -/
def loByte (v : Word) : Byte := v.extractLsb' 0 8

/-- `{hi, lo}`, big-endian (20_memory.md R101). -/
def joinBytes (hi lo : Byte) : Word := hi ++ lo

/-- `parity(b)`: whether a byte has an odd number of 1 bits (R11). -/
def parity (b : Byte) : Bool :=
  ((b.getLsbD 0 ^^ b.getLsbD 1) ^^ (b.getLsbD 2 ^^ b.getLsbD 3)) ^^
  ((b.getLsbD 4 ^^ b.getLsbD 5) ^^ (b.getLsbD 6 ^^ b.getLsbD 7))

/-- A byte as a word, zero-extended. -/
def zextByte (b : Byte) : Word := b.zeroExtend 16

/-- `sext_8(disp)` as a word (30_encoding.md R181, R182). -/
def sextDisp (d : Byte) : Word := d.signExtend 16

end Sys2Proof.Machine
end

