-- ==== Sys2Proof/Machine/Flags.lean ====
section
/-! DEFINITION. The status register's bits (10_state.md R54) and the flag functions of 40_operands.md R205 to R209. A flag
function takes ST and answers it with the flags its rule names changed and every other bit kept. -/

namespace Sys2Proof.Machine

/-- L>, logical greater than. -/
def bitLgt : Nat := 15
/-- A>, arithmetic greater than. -/
def bitAgt : Nat := 14
/-- EQ. -/
def bitEq : Nat := 13
/-- C, carry. -/
def bitC : Nat := 12
/-- OV, overflow. -/
def bitOv : Nat := 11
/-- OP, odd parity. -/
def bitOp : Nat := 10
/-- X, an XOP is in progress. -/
def bitX : Nat := 9

/-- The bits of ST that are defined: reserved bits 8 to 4 are always 0 (R54). -/
def stMask : Word := 0xFE0F

/-- IM, bits 3 to 0 (R54). -/
def intMask (st : Word) : BitVec 4 := st.extractLsb' 0 4

/-- ST with IM replaced. -/
def setIntMask (st : Word) (im : BitVec 4) : Word := (st &&& 0xFFF0) ||| im.zeroExtend 16

/-- L>, A> and EQ set together. -/
def setCompare (st : Word) (lgt agt eq : Bool) : Word := setBit (setBit (setBit st bitLgt lgt) bitAgt agt) bitEq eq

/-- `LAE_w(v)`: compare with zero (R205). -/
def lae {w : Nat} (v : BitVec w) (st : Word) : Word := setCompare st (v != 0#w) (!v.msb && v != 0#w) (v == 0#w)

/-- The flags of `ADD_w(d, s)` (R206). -/
def addFlags {w : Nat} (d s : BitVec w) (st : Word) : Word :=
  let r := d + s
  lae r (setBit (setBit st bitC (decide (2 ^ w ≤ d.toNat + s.toNat))) bitOv (d.msb == s.msb && r.msb != d.msb))

/-- The flags of `SUB_w(d, s)`, d - s; the carry is "no borrow" (R207). -/
def subFlags {w : Nat} (d s : BitVec w) (st : Word) : Word :=
  let r := d - s
  lae r (setBit (setBit st bitC (decide (s.toNat ≤ d.toNat))) bitOv (d.msb != s.msb && r.msb != d.msb))

/-- `CMP_w(s, d)`: s against d, in that order; unsigned and signed computed independently (R208). -/
def cmpFlags {w : Nat} (s d : BitVec w) (st : Word) : Word :=
  setCompare st (decide (d.toNat < s.toNat)) (decide (d.toInt < s.toInt)) (s == d)

/-- `ST.OP <- parity(b)` (R209). -/
def opFlag (b : Byte) (st : Word) : Word := setBit st bitOp (parity b)

/-- `ST.EQ <- b`. -/
def eqFlag (b : Bool) (st : Word) : Word := setBit st bitEq b

end Sys2Proof.Machine
end

