-- ==== Sys2Proof/Machine/Update.lean ====
section
/-! DEFINITION. One named update per field of State. Laws/State.lean says what each leaves alone. -/

namespace Sys2Proof.Machine

/-- `pc <- v`: every write of PC clears bit 0 (10_state.md R53). -/
def State.setPc (s : State) (v : Word) : State := { s with pc := evenAddr v }
/-- `WP <- v`: every write of WP clears bit 0 (10_state.md R52). -/
def State.setWp (s : State) (v : Word) : State := { s with wp := evenAddr v }
/-- ST as a flag rule leaves it. -/
def State.setSt (s : State) (v : Word) : State := { s with st := v }
def State.setInstPc (s : State) (v : Word) : State := { s with instPc := v }
/-- Time passes (10_state.md R55). -/
def State.addCycles (s : State) (n : Nat) : State := { s with cycles := s.cycles + n }
/-- The cycle counter put back or set by the host or by reset (70_reset_and_hazards.md R470, R490). -/
def State.setCycles (s : State) (n : Nat) : State := { s with cycles := n }
def State.setRun (s : State) (v : RunState) : State := { s with run := v }
def State.setIntPending (s : State) (v : Bool) : State := { s with intPending := v }
def State.setNoIntCheck (s : State) (v : Bool) : State := { s with noIntCheck := v }
/-- Append to the event log (10_state.md R58). -/
def State.log (s : State) (e : Event) : State := { s with events := s.events ++ [e] }
def State.setCartBank (s : State) (v : Nat) : State := { s with cartBank := v }
def State.setIo (s : State) (v : Controller) : State := { s with io := v }
def State.setKbd (s : State) (v : Keyboard) : State := { s with kbd := v }
def State.setMapper (s : State) (v : Mapper) : State := { s with mapper := v }
def State.setTags (s : State) (v : List (Nat × RegionTag)) : State := { s with tags := v }
def State.setPool (s : State) (v : Memory) : State := { s with pool := v }
def State.setScratch (s : State) (v : Memory) : State := { s with scratch := v }
def State.setSched (s : State) (v : Scheduler) : State := { s with sched := v }
def State.setXChain (s : State) (v : Option XChain) : State := { s with xChain := v }
/-- One more free value has been drawn. -/
def State.nextDraw (s : State) : State := { s with draws := s.draws + 1 }
def State.setDevInputs (s : State) (v : List DevReaction) : State := { s with devInputs := v }
def State.setCruInputs (s : State) (v : List EnableReaction) : State := { s with cruInputs := v }
def State.setMd (s : State) (v : Descriptor) : State := { s with md := v }

/-- A write of the whole status register, `v & 0xFE0F` (10_state.md R54). -/
def State.loadSt (s : State) (v : Word) : State := s.setSt (v &&& stMask)

end Sys2Proof.Machine
end

