-- ==== Sys2Proof/Machine/Nine901.lean ====
section
/-! DEFINITION. The 9901-class interrupt/IO controller on its own: request, enable and count (60_exceptions.md R425, R426),
the timer (R440) and the pin writes (R431, R434, R436). Pins outside 0 to 31 do not occur; a pin outside 1 to 15 never
requests. -/

namespace Sys2Proof.Machine

/-- A pin that can carry an interrupt request (10_state.md R61). -/
def canRequest (p : Nat) : Bool := decide (1 ≤ p) && decide (p ≤ 15)

/-- `Raise(p)` (R426). -/
def Controller.raise (c : Controller) (p : Nat) : Controller :=
  if canRequest p && !c.req.getLsbD p then
    { c with req := setBit c.req p true, intCount := if c.en.getLsbD p then c.intCount + 1 else c.intCount }
  else c

/-- `Clear(p)` (R426). -/
def Controller.clear (c : Controller) (p : Nat) : Controller :=
  if canRequest p && c.req.getLsbD p then
    { c with req := setBit c.req p false, intCount := if c.en.getLsbD p then c.intCount - 1 else c.intCount }
  else c

/-- `SetEn(p, b)` (R426). -/
def Controller.setEn (c : Controller) (p : Nat) (b : Bool) : Controller :=
  if canRequest p && c.en.getLsbD p != b then
    { c with
      en := setBit c.en p b
      intCount := if c.req.getLsbD p then (if b then c.intCount + 1 else c.intCount - 1) else c.intCount }
  else c

/-- `INTREQ` (R425). -/
def Controller.intReq (c : Controller) : Bool := c.intCount != 0

/-- `TimerSample()` at cycle count `now` (R440). -/
def Controller.timerSample (c : Controller) (now : Nat) : Controller :=
  if c.clock = 0#14 then c
  else
    let delta := (now - c.tBase) / 64
    let k := delta - c.tDelta
    let c1 := { c with tDelta := delta }
    if k = 0 then c1
    else if k < c.dec.toNat then { c1 with dec := BitVec.ofNat 14 (c.dec.toNat - k) }
    else { c1.raise 3 with dec := BitVec.ofNat 14 (c.clock.toNat - (k - c.dec.toNat) % c.clock.toNat) }

/-- Writing pin `p` in I/O mode (R431, R433). -/
def Controller.ioWrite (c : Controller) (p : Nat) (b : Bool) : Controller :=
  if p = 0 then { c with timerMode := b }
  else if p = 3 then (c.setEn 3 b).clear 3
  else if p ≤ 15 then c.setEn p b
  else if 18 ≤ p ∧ p ≤ 20 then { c with col := setBit c.col (p - 18) b }
  else if p = 21 then { c with caps := b }
  else c

/-- The soft reset: every enable to 0 (R436). -/
def Controller.softReset (c : Controller) : Controller :=
  [1, 2, 3, 4, 5, 6, 7, 8, 9, 10, 11, 12, 13, 14, 15].foldl (fun c p => c.setEn p false) c

/-- A clock bit is written: the decrementer reloads and the sample period starts anew at `now` (R434). -/
def Controller.clockWrite (c : Controller) (bit : Nat) (b : Bool) (now : Nat) : Controller :=
  let clock := setBit c.clock bit b
  { c with clock := clock, dec := clock, tBase := now, tDelta := 0 }

/-- Writing pin `p` in timer mode (R434). -/
def Controller.timerWrite (c : Controller) (p : Nat) (b : Bool) (now : Nat) : Controller :=
  if p = 0 then { c with timerMode := b }
  else if p ≤ 14 then c.clockWrite (p - 1) b now
  else if p = 15 then (if b then c else c.softReset)
  else { c with timerMode := false }.ioWrite p b

/-- Writing pin `p` after the sample that precedes it (R429). -/
def Controller.pinWrite (c : Controller) (p : Nat) (b : Bool) (now : Nat) : Controller :=
  if c.timerMode then c.timerWrite p b now else c.ioWrite p b

end Sys2Proof.Machine
end

