-- ==== Sys2Proof/Machine/Ops.lean ====
section
/-! DEFINITION. The named operations every instruction is made of: the data bus with its classifier, mapper and
collaborators (20_memory.md), registers (10_state.md R51), the CRU bus (20_memory.md R140), taking an interrupt or a
context switch and returning from one (60_exceptions.md R410 to R414). -/

namespace Sys2Proof.Machine

/-! ## The classifier -/

/-- The tag of the granule that holds address `a` (20_memory.md R110). -/
def State.tagAt (s : State) (a : Word) : RegionTag := sparseGet (regionInit s.md) s.tags (a.toNat / 16)

/-- The classifier table with granule `g` retagged (20_memory.md R113). -/
def State.setTag (s : State) (g : Nat) (t : RegionTag) : State := s.setTags (sparseSet (regionInit s.md) s.tags g t)

/-- The collaborator regions (20_memory.md R121). -/
def isCollaborator : RegionTag → Bool
  | .sound | .vdpRd | .vdpWr | .speech | .grom | .dsr | .disk => true
  | .consoleRom | .scratch | .expRam | .cartBanked | .cartPlain | .mapperRegs | .unused => false

/-- The penalty of one access to a granule of tag `t` (20_memory.md R122). -/
def State.chargeBus (s : State) (t : RegionTag) : State := if is8Bit s.md t then s.addCycles s.md.wait8 else s

/-! ## Where a byte lives -/

/-- What backs a byte address now: a byte of a ROM image, of the scratchpad or of the pool, half of a page register, or
nothing that holds data (a collaborator's port, an unused address, a ROM offset past its image). -/
inductive Home where
  | console (off : Nat)
  | scratch (off : Nat)
  | pool (off : Nat)
  | cart (off : Nat)
  | page (r : BitVec 4) (low : Bool)
  | port (t : RegionTag)
deriving DecidableEq, Repr

/-- The region of an address (20_memory.md R117). -/
def regionOf (a : Word) : BitVec 4 := a.extractLsb' 12 4

/-- The page register an address of the register window selects, `(a >> 1) & 0xF` (20_memory.md R130). -/
def pageOf (a : Word) : BitVec 4 := a.extractLsb' 1 4

/-- The bank in effect for a region. -/
def Mapper.bankOf (m : Mapper) (r : BitVec 4) : Nat := m.bank[r.toFin]

/-- The word last written to page register `r`. -/
def Mapper.reqOf (m : Mapper) (r : BitVec 4) : Word := m.reqw[r.toFin]

/-- What backs byte address `a` (20_memory.md R115 to R121, R130). -/
def State.home (s : State) (a : Word) : Home :=
  match s.tagAt a with
  | .consoleRom => .console (a.toNat % 8192)
  | .scratch => .scratch (a.toNat % 256)
  | .expRam => .pool (s.mapper.bankOf (regionOf a) * 4096 + a.toNat % 4096)
  | .cartPlain => .cart (a.toNat % 8192)
  | .cartBanked => .cart (s.cartBank * 8192 + a.toNat % 8192)
  | .mapperRegs => .page (pageOf a) (a.getLsbD 0)
  | .sound => .port .sound
  | .vdpRd => .port .vdpRd
  | .vdpWr => .port .vdpWr
  | .speech => .port .speech
  | .grom => .port .grom
  | .dsr => .port .dsr
  | .disk => .port .disk
  | .unused => .port .unused

/-- The byte a home holds; none where nothing holds data. A cartridge offset past the image holds none (assumption 15). -/
def State.homeByte (s : State) : Home → Option Byte
  | .console off => some (Memory.read s.md.consoleRom off)
  | .scratch off => some (s.scratch.read off)
  | .pool off => some (s.pool.read off)
  | .cart off => if off < s.md.cartBanks * 8192 then some (Memory.read s.md.cartRom off) else none
  | .page r low => some (if low then loByte (s.mapper.reqOf r) else hiByte (s.mapper.reqOf r))
  | .port _ => none

/-- The byte at address `a`, read without any effect: what a statement about memory reads. None where nothing holds
data. -/
def State.peek (s : State) (a : Word) : Option Byte := s.homeByte (s.home a)

/-! ## Collaborators -/

/-- Retag granules `lo` to `hi` of the DSR window, those that carry DSR or DISK, to DISK or DSR (20_memory.md R113). -/
def State.retag (s : State) (disk : Bool) (lo hi : Nat) : State :=
  ((List.range' 0x400 0x200).filter (fun g => decide (lo ≤ g) && decide (g ≤ hi))).foldl
    (fun s g =>
      if sparseGet (regionInit s.md) s.tags g = .dsr ∨ sparseGet (regionInit s.md) s.tags g = .disk then
        s.setTag g (if disk then .disk else .dsr)
      else s) s

/-- What one reaction of a collaborator to an access does (20_memory.md R121; 60_exceptions.md R427). -/
def State.applyReaction (s : State) : DevReaction → State
  | .quiet => s
  | .raise p => s.setIo (s.io.raise p)
  | .clear p => s.setIo (s.io.clear p)

/-- The collaborator whose region was accessed reacts: the next entry of the input list, or not at all (assumption 6). -/
def State.react (s : State) : State :=
  match s.devInputs with
  | [] => s
  | r :: rest => (s.setDevInputs rest).applyReaction r

/-- What one reaction of a collaborator to its CRU enable bit does (20_memory.md R113). -/
def State.applyEnable (s : State) : EnableReaction → State
  | .quiet => s
  | .retag disk lo hi => s.retag disk lo hi

/-- The collaborator whose CRU bit was written reacts: the next entry of the input list, or not at all (assumption 6). -/
def State.reactEnable (s : State) : State :=
  match s.cruInputs with
  | [] => s
  | r :: rest => (s.setCruInputs rest).applyEnable r

/-! ## The data bus -/

/-- `MemRead(a, 1)` (20_memory.md R110): the penalty, then the region's handler. -/
def State.readByte (s : State) (a : Word) : Byte × State :=
  let s1 := s.chargeBus (s.tagAt a)
  match s.peek a with
  | some b => (b, s1)
  | none =>
    let s2 := if isCollaborator (s.tagAt a) then (s1.log (.devRead (s.tagAt a) a 1)).react else s1
    (Config.drawByte s.draws, s2.nextDraw)

/-- The word at the even address `e`, read without any effect; none where nothing holds data. -/
def State.peekWord (s : State) (e : Word) : Option Word :=
  match s.peek e, s.peek (e + 1) with
  | some hi, some lo => some (joinBytes hi lo)
  | some _, none => none
  | none, some _ => none
  | none, none => none

/-- `MemRead(a, 2)`: one access to the even address (20_memory.md R101, R103, R110). -/
def State.readWord (s : State) (a : Word) : Word × State :=
  let e := evenAddr a
  let s1 := s.chargeBus (s.tagAt e)
  match s.peekWord e with
  | some v => (v, s1)
  | none =>
    let s2 := if isCollaborator (s.tagAt e) then (s1.log (.devRead (s.tagAt e) e 2)).react else s1
    (Config.drawWord s.draws, s2.nextDraw)

/-- Install the bank page register `r` asks for (20_memory.md R131, R134). -/
def Mapper.install (m : Mapper) (md : Descriptor) (r : Fin 16) : Mapper :=
  let b := samsIndex md m.reqw[r] % md.banks
  { m with bank := m.bank.set r b, hwm := max m.hwm b }

/-- Put region `r` back to its identity mapping (20_memory.md R134). -/
def Mapper.identity (m : Mapper) (md : Descriptor) (r : Fin 16) : Mapper :=
  { m with bank := m.bank.set r (r.val % md.banks) }

/-- `MapperWrite`: page register `r` gets the word `v` (20_memory.md R131). -/
def Mapper.pageWrite (m : Mapper) (md : Descriptor) (r : BitVec 4) (v : Word) : Mapper :=
  if m.visible then
    let m1 := { m with reqw := m.reqw.set r.toFin v }
    if m1.active && md.swappable.contains r.toFin then m1.install md r.toFin else m1
  else m

/-- A byte stored where RAM backs it (20_memory.md R116, R117). -/
def State.storeHome (s : State) (h : Home) (v : Byte) : State :=
  match h with
  | .scratch off => s.setScratch (s.scratch.write off v)
  | .pool off => s.setPool (s.pool.write off v)
  | .console _ | .cart _ | .page _ _ | .port _ => s

/-- `cart_bank <- (a >> 1) & cart_mask` (20_memory.md R118). -/
def State.selectCart (s : State) (a : Word) : State := s.setCartBank ((a >>> 1) &&& s.md.cartMask).toNat

/-- A collaborator is written: the record, then its reaction (20_memory.md R121). -/
def State.devWrite (s : State) (t : RegionTag) (a : Word) (n : Nat) (v : Word) : State :=
  (s.log (.devWrite t a n v)).react

/-- `Handler.write(a, 1, v)` of the region that holds `a` (20_memory.md R115 to R121, R131). -/
def State.handleByte (s : State) (a : Word) (v : Byte) : State :=
  match s.tagAt a with
  | .consoleRom | .cartPlain | .unused => s
  | .scratch | .expRam => s.storeHome (s.home a) v
  | .cartBanked => s.selectCart a
  | .mapperRegs =>
    let old := s.mapper.reqOf (pageOf a)
    let new := if a.getLsbD 0 then joinBytes (hiByte old) v else joinBytes v (loByte old)
    s.setMapper (s.mapper.pageWrite s.md (pageOf a) new)
  | .sound => s.devWrite .sound a 1 (zextByte v)
  | .vdpRd => s.devWrite .vdpRd a 1 (zextByte v)
  | .vdpWr => s.devWrite .vdpWr a 1 (zextByte v)
  | .speech => s.devWrite .speech a 1 (zextByte v)
  | .grom => s.devWrite .grom a 1 (zextByte v)
  | .dsr => s.devWrite .dsr a 1 (zextByte v)
  | .disk => s.devWrite .disk a 1 (zextByte v)

/-- `Handler.write(e, 2, v)` of the region that holds the even address `e`. -/
def State.handleWord (s : State) (e : Word) (v : Word) : State :=
  match s.tagAt e with
  | .consoleRom | .cartPlain | .unused => s
  | .scratch | .expRam => (s.storeHome (s.home e) (hiByte v)).storeHome (s.home (e + 1)) (loByte v)
  | .cartBanked => s.selectCart e
  | .mapperRegs => s.setMapper (s.mapper.pageWrite s.md (pageOf e) v)
  | .sound => s.devWrite .sound e 2 v
  | .vdpRd => s.devWrite .vdpRd e 2 v
  | .vdpWr => s.devWrite .vdpWr e 2 v
  | .speech => s.devWrite .speech e 2 v
  | .grom => s.devWrite .grom e 2 v
  | .dsr => s.devWrite .dsr e 2 v
  | .disk => s.devWrite .disk e 2 v

/-- `MemWrite(a, 1, v)` (20_memory.md R106, R110): the read that `READ_BEFORE_WRITE` asks for, the penalty, the handler. -/
def State.writeByte (s : State) (a : Word) (v : Byte) : State :=
  let s1 := if s.md.readBeforeWrite then (s.readByte a).2 else s
  (s1.chargeBus (s1.tagAt a)).handleByte a v

/-- `MemWrite(a, 2, v)`: one access to the even address (20_memory.md R103, R106, R110). -/
def State.writeWord (s : State) (a : Word) (v : Word) : State :=
  let s1 := if s.md.readBeforeWrite then (s.readWord a).2 else s
  (s1.chargeBus (s1.tagAt (evenAddr a))).handleWord (evenAddr a) v

/-- `Fetch()` (00_scope.md R12): the word at PC, and PC advanced by 2. -/
def State.fetch (s : State) : Word × State :=
  let r := s.readWord s.pc
  (r.1, r.2.setPc (s.pc + 2))

/-! ## Registers -/

/-- `RA(i)`: the address of register i, `(WP + 2*i) mod 2^16` (00_scope.md R13, 10_state.md R51). Index 16 is the word after
the workspace. -/
def State.ra (s : State) (i : Nat) : Word := s.wp + BitVec.ofNat 16 (2 * i)

/-- `x[i]` (00_scope.md R13). -/
def State.readReg (s : State) (i : Nat) : Word × State := s.readWord (s.ra i)

/-- `x[i] <- v` (00_scope.md R13). -/
def State.writeReg (s : State) (i : Nat) (v : Word) : State := s.writeWord (s.ra i) v

/-! ## The CRU bus -/

/-- `TimerSample()` (60_exceptions.md R440). -/
def State.timerSample (s : State) : State := s.setIo (s.io.timerSample s.cycles)

/-- Reading row `r` of the matrix: `NOT KEY_MATRIX(col, r, caps)`, an oracle that every read asks anew; joystick rows 0 to
2 read 1 (60_exceptions.md R450). -/
def State.matrixRow (s : State) (r : Nat) : Bool × State :=
  if decide (6 ≤ s.io.col.toNat) && decide (r ≤ 2) then (true, s)
  else (!Config.keyMatrix s.draws s.kbd.keys s.kbd.joy1 s.kbd.joy2 s.io.col.toNat r s.io.caps, s.nextDraw)

/-- Reading pin `p` in I/O mode (60_exceptions.md R432). -/
def State.ioRead (s : State) (p : Nat) : Bool × State :=
  if p = 0 then (false, s)
  else if p ≤ 2 then (!s.io.req.getLsbD p, s)
  else if p ≤ 10 then s.matrixRow (p - 3)
  else (true, s)

/-- Reading pin `p` in timer mode (60_exceptions.md R435). -/
def State.timerRead (s : State) (p : Nat) : Bool × State :=
  if p = 0 then (true, s)
  else if p ≤ 14 then (s.io.dec.getLsbD (p - 1), s)
  else if p = 15 then (s.io.req.getLsbD 3, s)
  else (s.setIo { s.io with timerMode := false }).ioRead p

/-- Reading pin `p` of the 9901: the sample first (60_exceptions.md R429). -/
def State.pinRead (s : State) (p : Nat) : Bool × State :=
  let s1 := s.timerSample
  if s1.io.timerMode then s1.timerRead p else s1.ioRead p

/-- Writing pin `p` of the 9901: the sample first (60_exceptions.md R429). -/
def State.pinWrite (s : State) (p : Nat) (b : Bool) : State :=
  let s1 := s.timerSample
  s1.setIo (s1.io.pinWrite p b s1.cycles)

/-- The mapper's visibility bit is written: the register window is retagged (20_memory.md R113, R133). -/
def State.writeVisible (s : State) (b : Bool) : State :=
  let t := if b then RegionTag.mapperRegs else RegionTag.dsr
  ((s.setMapper { s.mapper with visible := b }).setTag 0x400 t).setTag 0x401 t

/-- The mapping-active bit is written: every swappable region is evaluated again (20_memory.md R134). -/
def Mapper.writeActive (m : Mapper) (md : Descriptor) (b : Bool) : Mapper :=
  md.swappable.foldl (fun m r => if b then m.install md r else m.identity md r) { m with active := b }

/-- `CruRead(a)` (20_memory.md R135, R140). -/
def State.cruRead (s : State) (a : CruAddr) : Bool × State :=
  match pinOf s.md a with
  | some p => s.pinRead p
  | none =>
    if a = s.md.samsCruBase then (s.mapper.visible, s)
    else if a = s.md.samsCruBase + 1 then (s.mapper.active, s)
    else (Config.drawBit s.draws, s.nextDraw)

/-- `CruWrite(a, b)` (20_memory.md R133, R134, R140). -/
def State.cruWrite (s : State) (a : CruAddr) (b : Bool) : State :=
  match pinOf s.md a with
  | some p => s.pinWrite p b
  | none =>
    if a = s.md.samsCruBase then s.writeVisible b
    else if a = s.md.samsCruBase + 1 then s.setMapper (s.mapper.writeActive s.md b)
    else (s.log (.cruOut a b)).reactEnable

/-- Bits i, i+1, … of `v`, `n` of them, to CRU addresses a + i, a + i + 1, … in increasing order (20_memory.md R141). -/
def State.cruWriteBits (s : State) (a : CruAddr) (v : Word) (i : Nat) : Nat → State
  | 0 => s
  | n + 1 => (s.cruWrite (a + BitVec.ofNat 12 i) (v.getLsbD i)).cruWriteBits a v (i + 1) n

/-- `n` bits read from CRU addresses a + i, a + i + 1, … in increasing order into bits i, i+1, … of `v` (R141). -/
def State.cruReadBits (s : State) (a : CruAddr) (v : Word) (i : Nat) : Nat → Word × State
  | 0 => (v, s)
  | n + 1 =>
    let r := s.cruRead (a + BitVec.ofNat 12 i)
    r.2.cruReadBits a (setBit v i r.1) (i + 1) n

/-- The CRU base `x[12][12:1]` (43_jumps_crubit.md R296). -/
def State.cruBase (s : State) : CruAddr × State :=
  let r := s.readReg 12
  (r.1.extractLsb' 1 12, r.2)

/-! ## Taking an exception and returning from one -/

/-- `ContextSwitch(nwp, npc)`, shared by BLWP, XOP and interrupt entry (60_exceptions.md R410). -/
def State.contextSwitch (s : State) (nwp npc : Word) : State :=
  ((((s.setWp nwp).writeReg 13 s.wp).writeReg 14 s.pc).writeReg 15 s.st).setPc npc

/-- The two vector words at `v` and `v + 2`, read before anything is written (60_exceptions.md R410). -/
def State.readVector (s : State) (v : Word) : (Word × Word) × State :=
  let nwp := s.readWord v
  let npc := nwp.2.readWord (v + 2)
  ((nwp.1, npc.1), npc.2)

/-- `InterruptEntry(L)` (60_exceptions.md R411, R414). -/
def State.interruptEntry (s : State) (level : Nat) : State :=
  let v := s.readVector (BitVec.ofNat 16 (4 * level))
  let s1 := v.2.contextSwitch v.1.1 v.1.2
  let s2 := s1.setSt (setIntMask s1.st (BitVec.ofNat 4 (level - 1)))
  let s3 := if s2.run = .idleWaiting then s2.setRun .running else s2
  (s3.addCycles (baseCycles s3.md .interrupt)).setNoIntCheck true

/-- The end-of-step interrupt check (60_exceptions.md R412, R413). -/
def State.interruptCheck (s : State) : State :=
  if s.noIntCheck then s.setNoIntCheck false
  else
    let s1 := s.timerSample
    let s2 := s1.setIntPending s1.io.intReq
    if s2.intPending && decide (s2.md.cpuIntLevel ≤ (intMask s2.st).toNat) then s2.interruptEntry s2.md.cpuIntLevel
    else s2

/-- The return from a context switch: R15, R14, R13 of the current workspace give ST, PC, WP
(46_immediate_control.md R374). -/
def State.returnContext (s : State) : State :=
  let nst := s.readReg 15
  let npc := nst.2.readReg 14
  let nwp := npc.2.readReg 13
  ((nwp.2.loadSt nst.1).setPc npc.1).setWp nwp.1

/-! ## Ending an instruction -/

/-- The instruction's base cost, added after its effect (40_operands.md R211, 70_reset_and_hazards.md R519). -/
def State.pay (s : State) (i : Instr) (o : CostOutcome) : State := s.addCycles (baseCycles s.md (.instr i o))

/-- `raise UnsupportedExtendedOperation(pc0, mnemonic)` (46_immediate_control.md R376). DESIGN CHOICE, unsafe (assumption
28): under X, pc0 is the address of the X, as R380 has it for an ILLEGAL word; R376's "address of its word" could also name
the word that X executes. -/
def State.flagExternal (s : State) (op : ExternalOp) : State := s.log (.unsupportedExtendedOperation s.instPc op)

/-- `raise InvalidOpcode(pc0, w)` and its cost (46_immediate_control.md R380). -/
def State.invalidOpcode (s : State) (w : Word) : State :=
  (s.log (.invalidOpcode s.instPc w)).addCycles s.md.invalidCycles

end Sys2Proof.Machine
end

