-- ==== Sys2Proof/Machine/Operands.lean ====
section
/-! DEFINITION. Every operand form (40_operands.md R200 to R204) and the execution frames that families share: what reads
its operands in R203's order, computes, and writes the result. An ALU function takes the operands and ST and answers the
result and the new ST. -/

namespace Sys2Proof.Machine

/-- The operand size of an instruction: 1 or 2 bytes (R200). -/
inductive Size where
  | byte | word
deriving DecidableEq, Repr

/-- What an autoincrement adds (R201). -/
def Size.step : Size → Word
  | .byte => 1
  | .word => 2

/-- `EA(T, n, size)` (R201): the operand's address, after its extension word is fetched and its autoincrement written. -/
def State.ea (s : State) (g : GA) (size : Size) : Word × State :=
  match g with
  | .reg n => (s.ra n.toNat, s)
  | .ind n => s.readReg n.toNat
  | .sym => s.fetch
  | .idx n =>
    let ext := s.fetch
    let x := ext.2.readReg n.toNat
    (ext.1 + x.1, x.2)
  | .inc n =>
    let x := s.readReg n.toNat
    (x.1, x.2.writeReg n.toNat (x.1 + size.step))

/-- The source operand of a word instruction: its effective address, then the word there (R203 steps 2 and 3). -/
def State.sourceWord (s : State) (g : GA) : Word × State :=
  let a := s.ea g .word
  a.2.readWord a.1

/-- The source operand of a byte instruction. -/
def State.sourceByte (s : State) (g : GA) : Byte × State :=
  let a := s.ea g .byte
  a.2.readByte a.1

/-! ## Format I (41_dual_operand.md R230) -/

/-- Word form that reads and writes its destination. -/
def State.dualModifyWord (s : State) (src dst : GA) (f : (d s st : Word) → Word × Word) : State :=
  let v := s.sourceWord src
  let da := v.2.ea dst .word
  let d := da.2.readWord da.1
  let r := f d.1 v.1 d.2.st
  (d.2.setSt r.2).writeWord da.1 r.1

/-- Byte form that reads and writes its destination. -/
def State.dualModifyByte (s : State) (src dst : GA) (f : (d s : Byte) → (st : Word) → Byte × Word) : State :=
  let v := s.sourceByte src
  let da := v.2.ea dst .byte
  let d := da.2.readByte da.1
  let r := f d.1 v.1 d.2.st
  (d.2.setSt r.2).writeByte da.1 r.1

/-- Word form that only compares. -/
def State.dualCompareWord (s : State) (src dst : GA) (f : (s d st : Word) → Word) : State :=
  let v := s.sourceWord src
  let da := v.2.ea dst .word
  let d := da.2.readWord da.1
  d.2.setSt (f v.1 d.1 d.2.st)

/-- Byte form that only compares. -/
def State.dualCompareByte (s : State) (src dst : GA) (f : (s d : Byte) → (st : Word) → Word) : State :=
  let v := s.sourceByte src
  let da := v.2.ea dst .byte
  let d := da.2.readByte da.1
  d.2.setSt (f v.1 d.1 d.2.st)

/-- Word form that writes its destination without reading it. -/
def State.dualMoveWord (s : State) (src dst : GA) (f : (s st : Word) → Word) : State :=
  let v := s.sourceWord src
  let da := v.2.ea dst .word
  (da.2.setSt (f v.1 da.2.st)).writeWord da.1 v.1

/-- Byte form that writes its destination without reading it. -/
def State.dualMoveByte (s : State) (src dst : GA) (f : (s : Byte) → (st : Word) → Word) : State :=
  let v := s.sourceByte src
  let da := v.2.ea dst .byte
  (da.2.setSt (f v.1 da.2.st)).writeByte da.1 v.1

/-! ## Format VI (45_single_operand.md) -/

/-- The operand is read, changed and written back. -/
def State.singleModify (s : State) (g : GA) (f : (s st : Word) → Word × Word) : State :=
  let a := s.ea g .word
  let v := a.2.readWord a.1
  let r := f v.1 v.2.st
  (v.2.setSt r.2).writeWord a.1 r.1

/-- The operand is written without being read; no flag. -/
def State.singleSet (s : State) (g : GA) (v : Word) : State :=
  let a := s.ea g .word
  a.2.writeWord a.1 v

/-! ## Formats III and VIII: a register destination (R204) -/

/-- A source and register D are read; only ST changes. -/
def State.registerTest (s : State) (src : GA) (d : Reg) (f : (s d st : Word) → Word) : State :=
  let v := s.sourceWord src
  let x := v.2.readReg d.toNat
  x.2.setSt (f v.1 x.1 x.2.st)

/-- The immediate word is fetched, register W read, changed and written (46_immediate_control.md R360). -/
def State.immediateModify (s : State) (w : Reg) (f : (x imm st : Word) → Word × Word) : State :=
  let imm := s.fetch
  let x := imm.2.readReg w.toNat
  let r := f x.1 imm.1 x.2.st
  (x.2.setSt r.2).writeReg w.toNat r.1

/-! ## Format II: CRU single bit (43_jumps_crubit.md R296) -/

/-- The CRU address of SBO, SBZ and TB: base plus signed displacement, modulo 4096. -/
def State.cruBitAddr (s : State) (disp : Byte) : CruAddr × State :=
  let b := s.cruBase
  (b.1 + disp.signExtend 12, b.2)

end Sys2Proof.Machine
end

