-- ==== Sys2Proof/Machine/Control.lean ====
section
/-! DEFINITION. Formats VIII and VII, immediate, control and external instructions, and the ILLEGAL words
(46_immediate_control.md R360 to R380). -/

namespace Sys2Proof.Machine

/-- LI (R361): the register is not read. -/
def execLi (w : Reg) (s : State) : Host.Outcome State Fault Refusal :=
  let imm := s.fetch
  .next (((imm.2.setSt (lae imm.1 imm.2.st)).writeReg w.toNat imm.1).pay (.li w) .plain)

/-- AI (R362). -/
def execAi (w : Reg) (s : State) : Host.Outcome State Fault Refusal :=
  .next ((s.immediateModify w (fun x imm st => (x + imm, addFlags x imm st))).pay (.ai w) .plain)

/-- ANDI (R363). -/
def execAndi (w : Reg) (s : State) : Host.Outcome State Fault Refusal :=
  .next ((s.immediateModify w (fun x imm st => (x &&& imm, lae (x &&& imm) st))).pay (.andi w) .plain)

/-- ORI (R364). -/
def execOri (w : Reg) (s : State) : Host.Outcome State Fault Refusal :=
  .next ((s.immediateModify w (fun x imm st => (x ||| imm, lae (x ||| imm) st))).pay (.ori w) .plain)

/-- CI (R365): the register against the immediate. -/
def execCi (w : Reg) (s : State) : Host.Outcome State Fault Refusal :=
  let imm := s.fetch
  let x := imm.2.readReg w.toNat
  .next ((x.2.setSt (cmpFlags x.1 imm.1 x.2.st)).pay (.ci w) .plain)

/-- STWP (R366). -/
def execStwp (w : Reg) (s : State) : Host.Outcome State Fault Refusal :=
  .next ((s.writeReg w.toNat s.wp).pay (.stwp w) .plain)

/-- STST (R367). -/
def execStst (w : Reg) (s : State) : Host.Outcome State Fault Refusal :=
  .next ((s.writeReg w.toNat s.st).pay (.stst w) .plain)

/-- LWPI (R368). -/
def execLwpi (s : State) : Host.Outcome State Fault Refusal :=
  let imm := s.fetch
  .next ((imm.2.setWp imm.1).pay .lwpi .plain)

/-- LIMI (R372): IM gets imm[3:0]. -/
def execLimi (s : State) : Host.Outcome State Fault Refusal :=
  let imm := s.fetch
  .next ((imm.2.setSt (setIntMask imm.2.st (imm.1.extractLsb' 0 4))).pay .limi .plain)

/-- IDLE (R375): no instruction is fetched until an interrupt is accepted. -/
def execIdle (s : State) : Host.Outcome State Fault Refusal := .next ((s.setRun .idleWaiting).pay .idle .plain)

/-- RSET (R373): IM is cleared and the event logged; the 9901 and the mapper are not reset. -/
def execRset (s : State) : Host.Outcome State Fault Refusal :=
  .next (((s.setSt (setIntMask s.st 0#4)).flagExternal .rset).pay .rset .plain)

/-- RTWP (R374): the return from a context switch. -/
def execRtwp (s : State) : Host.Outcome State Fault Refusal := .next (s.returnContext.pay .rtwp .plain)

/-- CKON (R377): only the event. -/
def execCkon (s : State) : Host.Outcome State Fault Refusal := .next ((s.flagExternal .ckon).pay .ckon .plain)

/-- CKOF (R378): only the event. -/
def execCkof (s : State) : Host.Outcome State Fault Refusal := .next ((s.flagExternal .ckof).pay .ckof .plain)

/-- LREX (R379): only the event; there is no LOAD interrupt (60_exceptions.md R404). -/
def execLrex (s : State) : Host.Outcome State Fault Refusal := .next ((s.flagExternal .lrex).pay .lrex .plain)

/-- A word from 0x0000 to 0x01FF (R380). -/
def execIllegal0000 (low : BitVec 9) (s : State) : Host.Outcome State Fault Refusal :=
  .next (s.invalidOpcode (encodeWord (.illegal0000 low)))

/-- A word from 0x0320 to 0x033F (R380). -/
def execIllegal0320 (low : BitVec 5) (s : State) : Host.Outcome State Fault Refusal :=
  .next (s.invalidOpcode (encodeWord (.illegal0320 low)))

/-- A word from 0x0780 to 0x07FF (R380). -/
def execIllegal0780 (low : BitVec 7) (s : State) : Host.Outcome State Fault Refusal :=
  .next (s.invalidOpcode (encodeWord (.illegal0780 low)))

/-- A word from 0x0C00 to 0x0FFF (R380). -/
def execIllegal0C00 (low : BitVec 10) (s : State) : Host.Outcome State Fault Refusal :=
  .next (s.invalidOpcode (encodeWord (.illegal0C00 low)))

end Sys2Proof.Machine
end

