-- ==== Sys2Proof/Machine/CruShift.lean ====
section
/-! DEFINITION. Format IV, LDCR and STCR, and format V, the shifts (44_cru_multi_shift.md R310 to R318). The CRU base is
read from R12 once, after the operand is resolved (and read, for LDCR) and before the first CRU access (assumption 10). -/

namespace Sys2Proof.Machine

/-- LDCR (R311): the low bits of the operand to consecutive CRU bits. -/
def execLdcr (src : GA) (c : BitVec 4) (s : State) : Host.Outcome State Fault Refusal :=
  if cruCount c ≤ 8 then
    let v := s.sourceByte src
    let base := v.2.cruBase
    let t := base.2.cruWriteBits base.1 (zextByte v.1) 0 (cruCount c)
    .next ((t.setSt (opFlag v.1 (lae v.1 t.st))).pay (.ldcr src c) .plain)
  else
    let v := s.sourceWord src
    let base := v.2.cruBase
    let t := base.2.cruWriteBits base.1 v.1 0 (cruCount c)
    .next ((t.setSt (lae v.1 t.st)).pay (.ldcr src c) .plain)

/-- STCR (R312): consecutive CRU bits to the low bits of the operand, the rest 0. -/
def execStcr (dst : GA) (c : BitVec 4) (s : State) : Host.Outcome State Fault Refusal :=
  if cruCount c ≤ 8 then
    let a := s.ea dst .byte
    let base := a.2.cruBase
    let r := base.2.cruReadBits base.1 0 0 (cruCount c)
    let v := loByte r.1
    .next (((r.2.setSt (opFlag v (lae v r.2.st))).writeByte a.1 v).pay (.stcr dst c) .plain)
  else
    let a := s.ea dst .word
    let base := a.2.cruBase
    let r := base.2.cruReadBits base.1 0 0 (cruCount c)
    .next (((r.2.setSt (lae r.1 r.2.st)).writeWord a.1 r.1).pay (.stcr dst c) .plain)

/-- The shift count (R314): the field, or x[0][3:0], or 16. -/
def State.shiftCount (s : State) (c : BitVec 4) : Nat × State :=
  if c = 0#4 then
    let x := s.readReg 0
    let n := (x.1.extractLsb' 0 4).toNat
    (if n = 0 then 16 else n, x.2)
  else (c.toNat, s)

/-- The shared frame of the shifts (R313): `f` takes register W's value, the count and ST and answers the result and the
new ST. -/
def State.shift (s : State) (i : Instr) (w : Reg) (c : BitVec 4) (f : (v : Word) → (n : Nat) → (st : Word) → Word × Word) :
    State :=
  let n := s.shiftCount c
  let v := n.2.readReg w.toNat
  let r := f v.1 n.1 v.2.st
  ((v.2.setSt r.2).writeReg w.toNat r.1).pay i (.shifted n.1)

/-- SRA (R315): the sign bit is copied in; C is the last bit shifted out. -/
def execSra (w : Reg) (c : BitVec 4) (s : State) : Host.Outcome State Fault Refusal :=
  .next (s.shift (.sra w c) w c (fun v n st =>
    (v.sshiftRight n, lae (v.sshiftRight n) (setBit st bitC (v.getLsbD (n - 1))))))

/-- SRL (R316): zeros are shifted in. -/
def execSrl (w : Reg) (c : BitVec 4) (s : State) : Host.Outcome State Fault Refusal :=
  .next (s.shift (.srl w c) w c (fun v n st => (v >>> n, lae (v >>> n) (setBit st bitC (v.getLsbD (n - 1))))))

/-- Whether the sign bit changes at any point while `v` is shifted left `n` times (R317). -/
def signChanges (v : Word) : Nat → Bool
  | 0 => false
  | n + 1 => ((v <<< (n + 1)).msb != v.msb) || signChanges v n

/-- SLA (R317): OV when the sign changes on the way. -/
def execSla (w : Reg) (c : BitVec 4) (s : State) : Host.Outcome State Fault Refusal :=
  .next (s.shift (.sla w c) w c (fun v n st =>
    (v <<< n, lae (v <<< n) (setBit (setBit st bitC (v.getLsbD (16 - n))) bitOv (signChanges v n)))))

/-- SRC (R318): a rotation. -/
def execSrc (w : Reg) (c : BitVec 4) (s : State) : Host.Outcome State Fault Refusal :=
  .next (s.shift (.src w c) w c (fun v n st =>
    ((v >>> n) ||| (v <<< (16 - n)), lae ((v >>> n) ||| (v <<< (16 - n))) (setBit st bitC (v.getLsbD (n - 1))))))

end Sys2Proof.Machine
end

