-- ==== Sys2Proof/Machine/DualOperand.lean ====
section
/-! DEFINITION. Format I, two general addresses (41_dual_operand.md R230 to R242). -/

namespace Sys2Proof.Machine

/-- SZC (R239): d AND NOT s. -/
def execSzc (src dst : GA) (s : State) : Host.Outcome State Fault Refusal :=
  .next ((s.dualModifyWord src dst (fun d v st => (d &&& ~~~v, lae (d &&& ~~~v) st))).pay (.szc src dst) .plain)

/-- SZCB (R240): d AND NOT s on bytes. -/
def execSzcb (src dst : GA) (s : State) : Host.Outcome State Fault Refusal :=
  .next ((s.dualModifyByte src dst (fun d v st => (d &&& ~~~v, opFlag (d &&& ~~~v) (lae (d &&& ~~~v) st)))).pay
    (.szcb src dst) .plain)

/-- S (R235): d - s. -/
def execS (src dst : GA) (s : State) : Host.Outcome State Fault Refusal :=
  .next ((s.dualModifyWord src dst (fun d v st => (d - v, subFlags d v st))).pay (.s src dst) .plain)

/-- SB (R236): d - s on bytes. -/
def execSb (src dst : GA) (s : State) : Host.Outcome State Fault Refusal :=
  .next ((s.dualModifyByte src dst (fun d v st => (d - v, opFlag (d - v) (subFlags d v st)))).pay (.sb src dst) .plain)

/-- C (R233): compare words. -/
def execC (src dst : GA) (s : State) : Host.Outcome State Fault Refusal :=
  .next ((s.dualCompareWord src dst (fun v d st => cmpFlags v d st)).pay (.c src dst) .plain)

/-- CB (R234): compare bytes; OP from the source byte. -/
def execCb (src dst : GA) (s : State) : Host.Outcome State Fault Refusal :=
  .next ((s.dualCompareByte src dst (fun v d st => opFlag v (cmpFlags v d st))).pay (.cb src dst) .plain)

/-- A (R231): d + s. -/
def execA (src dst : GA) (s : State) : Host.Outcome State Fault Refusal :=
  .next ((s.dualModifyWord src dst (fun d v st => (d + v, addFlags d v st))).pay (.a src dst) .plain)

/-- AB (R232): d + s on bytes. -/
def execAb (src dst : GA) (s : State) : Host.Outcome State Fault Refusal :=
  .next ((s.dualModifyByte src dst (fun d v st => (d + v, opFlag (d + v) (addFlags d v st)))).pay (.ab src dst) .plain)

/-- MOV (R241). -/
def execMov (src dst : GA) (s : State) : Host.Outcome State Fault Refusal :=
  .next ((s.dualMoveWord src dst (fun v st => lae v st)).pay (.mov src dst) .plain)

/-- MOVB (R242). -/
def execMovb (src dst : GA) (s : State) : Host.Outcome State Fault Refusal :=
  .next ((s.dualMoveByte src dst (fun v st => opFlag v (lae v st))).pay (.movb src dst) .plain)

/-- SOC (R237): d OR s. -/
def execSoc (src dst : GA) (s : State) : Host.Outcome State Fault Refusal :=
  .next ((s.dualModifyWord src dst (fun d v st => (d ||| v, lae (d ||| v) st))).pay (.soc src dst) .plain)

/-- SOCB (R238): d OR s on bytes. -/
def execSocb (src dst : GA) (s : State) : Host.Outcome State Fault Refusal :=
  .next ((s.dualModifyByte src dst (fun d v st => (d ||| v, opFlag (d ||| v) (lae (d ||| v) st)))).pay
    (.socb src dst) .plain)

end Sys2Proof.Machine
end

