-- ==== Sys2Proof/Machine/Jumps.lean ====
section
/-! DEFINITION. Format II: the jumps and the CRU single-bit instructions (43_jumps_crubit.md R280 to R299). -/

namespace Sys2Proof.Machine

/-- `Jump(cond, disp)` (R280): PC is already past the jump. -/
def State.jump (s : State) (i : Instr) (cond : Bool) (disp : Byte) : State :=
  if cond then (s.setPc (s.pc + 2 * sextDisp disp)).pay i .taken else s.pay i .notTaken

/-- JMP (R281). -/
def execJmp (disp : Byte) (s : State) : Host.Outcome State Fault Refusal := .next (s.jump (.jmp disp) true disp)

/-- JLT (R282): A> = 0 and EQ = 0. -/
def execJlt (disp : Byte) (s : State) : Host.Outcome State Fault Refusal :=
  .next (s.jump (.jlt disp) (!s.st.getLsbD bitAgt && !s.st.getLsbD bitEq) disp)

/-- JLE (R283): L> = 0 or EQ = 1. -/
def execJle (disp : Byte) (s : State) : Host.Outcome State Fault Refusal :=
  .next (s.jump (.jle disp) (!s.st.getLsbD bitLgt || s.st.getLsbD bitEq) disp)

/-- JEQ (R284): EQ = 1. -/
def execJeq (disp : Byte) (s : State) : Host.Outcome State Fault Refusal :=
  .next (s.jump (.jeq disp) (s.st.getLsbD bitEq) disp)

/-- JHE (R285): L> = 1 or EQ = 1. -/
def execJhe (disp : Byte) (s : State) : Host.Outcome State Fault Refusal :=
  .next (s.jump (.jhe disp) (s.st.getLsbD bitLgt || s.st.getLsbD bitEq) disp)

/-- JGT (R286): A> = 1. -/
def execJgt (disp : Byte) (s : State) : Host.Outcome State Fault Refusal :=
  .next (s.jump (.jgt disp) (s.st.getLsbD bitAgt) disp)

/-- JNE (R287): EQ = 0. -/
def execJne (disp : Byte) (s : State) : Host.Outcome State Fault Refusal :=
  .next (s.jump (.jne disp) (!s.st.getLsbD bitEq) disp)

/-- JNC (R288): C = 0. -/
def execJnc (disp : Byte) (s : State) : Host.Outcome State Fault Refusal :=
  .next (s.jump (.jnc disp) (!s.st.getLsbD bitC) disp)

/-- JOC (R289): C = 1. -/
def execJoc (disp : Byte) (s : State) : Host.Outcome State Fault Refusal :=
  .next (s.jump (.joc disp) (s.st.getLsbD bitC) disp)

/-- JNO (R290): OV = 0. -/
def execJno (disp : Byte) (s : State) : Host.Outcome State Fault Refusal :=
  .next (s.jump (.jno disp) (!s.st.getLsbD bitOv) disp)

/-- JL (R291): L> = 0 and EQ = 0. -/
def execJl (disp : Byte) (s : State) : Host.Outcome State Fault Refusal :=
  .next (s.jump (.jl disp) (!s.st.getLsbD bitLgt && !s.st.getLsbD bitEq) disp)

/-- JH (R292): L> = 1 and EQ = 0. -/
def execJh (disp : Byte) (s : State) : Host.Outcome State Fault Refusal :=
  .next (s.jump (.jh disp) (s.st.getLsbD bitLgt && !s.st.getLsbD bitEq) disp)

/-- JOP (R293): OP = 1. -/
def execJop (disp : Byte) (s : State) : Host.Outcome State Fault Refusal :=
  .next (s.jump (.jop disp) (s.st.getLsbD bitOp) disp)

/-- SBO (R297): 1 to a CRU bit. -/
def execSbo (disp : Byte) (s : State) : Host.Outcome State Fault Refusal :=
  let a := s.cruBitAddr disp
  .next ((a.2.cruWrite a.1 true).pay (.sbo disp) .plain)

/-- SBZ (R298): 0 to a CRU bit. -/
def execSbz (disp : Byte) (s : State) : Host.Outcome State Fault Refusal :=
  let a := s.cruBitAddr disp
  .next ((a.2.cruWrite a.1 false).pay (.sbz disp) .plain)

/-- TB (R299): EQ gets a CRU bit. -/
def execTb (disp : Byte) (s : State) : Host.Outcome State Fault Refusal :=
  let a := s.cruBitAddr disp
  let r := a.2.cruRead a.1
  .next ((r.2.setSt (eqFlag r.1 r.2.st)).pay (.tb disp) .plain)

end Sys2Proof.Machine
end

