-- ==== Sys2Proof/Machine/RegisterOperand.lean ====
section
/-! DEFINITION. Formats III and IX: COC, CZC, XOR, XOP, MPY, DIV (42_format3_9.md R260 to R265). -/

namespace Sys2Proof.Machine

/-- COC (R260): EQ when d has a 1 wherever s has. -/
def execCoc (src : GA) (d : Reg) (s : State) : Host.Outcome State Fault Refusal :=
  .next ((s.registerTest src d (fun v x st => eqFlag (v &&& x == v) st)).pay (.coc src d) .plain)

/-- CZC (R261): EQ when d has a 0 wherever s has a 1. -/
def execCzc (src : GA) (d : Reg) (s : State) : Host.Outcome State Fault Refusal :=
  .next ((s.registerTest src d (fun v x st => eqFlag (v &&& x == 0#16) st)).pay (.czc src d) .plain)

/-- XOR (R262). -/
def execXor (src : GA) (d : Reg) (s : State) : Host.Outcome State Fault Refusal :=
  let v := s.sourceWord src
  let x := v.2.readReg d.toNat
  let r := x.1 ^^^ v.1
  .next (((x.2.setSt (lae r x.2.st)).writeReg d.toNat r).pay (.xor src d) .plain)

/-- XOP (R263): a context switch through the vector at 0x0040 + 4n, the operand's address in the new R11. -/
def execXop (src : GA) (n : BitVec 4) (s : State) : Host.Outcome State Fault Refusal :=
  let a := s.ea src .word
  let v := a.2.readVector (0x0040 + BitVec.ofNat 16 (4 * n.toNat))
  let t := (v.2.contextSwitch v.1.1 v.1.2).writeReg 11 a.1
  .next (((t.setSt (setBit t.st bitX true)).setNoIntCheck true).pay (.xop src n) .plain)

/-- MPY (R264): the 32-bit product in registers D and D+1. -/
def execMpy (src : GA) (d : Reg) (s : State) : Host.Outcome State Fault Refusal :=
  let v := s.sourceWord src
  let x := v.2.readReg d.toNat
  let p := x.1.toNat * v.1.toNat
  let s1 := x.2.writeReg d.toNat (BitVec.ofNat 16 (p / 65536))
  .next ((s1.writeReg (d.toNat + 1) (BitVec.ofNat 16 p)).pay (.mpy src d) .plain)

/-- DIV (R265): quotient and remainder in D and D+1, or OV when the divisor is not above the high word. -/
def execDiv (src : GA) (d : Reg) (s : State) : Host.Outcome State Fault Refusal :=
  let v := s.sourceWord src
  let hi := v.2.readReg d.toNat
  if v.1 ≤ hi.1 then
    .next ((hi.2.setSt (setBit hi.2.st bitOv true)).pay (.div src d) .overflow)
  else
    let lo := hi.2.readReg (d.toNat + 1)
    let n := hi.1.toNat * 65536 + lo.1.toNat
    let s1 := lo.2.writeReg d.toNat (BitVec.ofNat 16 (n / v.1.toNat))
    let s2 := s1.writeReg (d.toNat + 1) (BitVec.ofNat 16 (n % v.1.toNat))
    .next ((s2.setSt (setBit s2.st bitOv false)).pay (.div src d) (.divided hi.1 lo.1 v.1))

end Sys2Proof.Machine
end

