-- ==== Sys2Proof/Machine/SingleOperand.lean ====
section
/-! DEFINITION. Format VI, one general address, but for X (45_single_operand.md R330 to R343; X is in Execute.lean). -/

namespace Sys2Proof.Machine

/-- BLWP (R330): a context switch through the two-word vector at the operand's address. -/
def execBlwp (g : GA) (s : State) : Host.Outcome State Fault Refusal :=
  let a := s.ea g .word
  let v := a.2.readVector a.1
  .next (((v.2.contextSwitch v.1.1 v.1.2).setNoIntCheck true).pay (.blwp g) .plain)

/-- B (R331): to the operand's address; the operand is not read. -/
def execB (g : GA) (s : State) : Host.Outcome State Fault Refusal :=
  let a := s.ea g .word
  .next ((a.2.setPc a.1).pay (.b g) .plain)

/-- CLR (R333). -/
def execClr (g : GA) (s : State) : Host.Outcome State Fault Refusal :=
  .next ((s.singleSet g 0x0000).pay (.clr g) .plain)

/-- NEG (R334): 0 - s. -/
def execNeg (g : GA) (s : State) : Host.Outcome State Fault Refusal :=
  .next ((s.singleModify g (fun v st => (0#16 - v, subFlags 0#16 v st))).pay (.neg g) .plain)

/-- INV (R335). -/
def execInv (g : GA) (s : State) : Host.Outcome State Fault Refusal :=
  .next ((s.singleModify g (fun v st => (~~~v, lae (~~~v) st))).pay (.inv g) .plain)

/-- INC (R336). -/
def execInc (g : GA) (s : State) : Host.Outcome State Fault Refusal :=
  .next ((s.singleModify g (fun v st => (v + 1#16, addFlags v 1#16 st))).pay (.inc g) .plain)

/-- INCT (R337). -/
def execInct (g : GA) (s : State) : Host.Outcome State Fault Refusal :=
  .next ((s.singleModify g (fun v st => (v + 2#16, addFlags v 2#16 st))).pay (.inct g) .plain)

/-- DEC (R338). -/
def execDec (g : GA) (s : State) : Host.Outcome State Fault Refusal :=
  .next ((s.singleModify g (fun v st => (v - 1#16, subFlags v 1#16 st))).pay (.dec g) .plain)

/-- DECT (R339). -/
def execDect (g : GA) (s : State) : Host.Outcome State Fault Refusal :=
  .next ((s.singleModify g (fun v st => (v - 2#16, subFlags v 2#16 st))).pay (.dect g) .plain)

/-- BL (R340): the return address to R11, then to the operand's address. -/
def execBl (g : GA) (s : State) : Host.Outcome State Fault Refusal :=
  let a := s.ea g .word
  .next (((a.2.writeReg 11 a.2.pc).setPc a.1).pay (.bl g) .plain)

/-- SWPB (R341): the operand's bytes change places; no flag. -/
def execSwpb (g : GA) (s : State) : Host.Outcome State Fault Refusal :=
  .next ((s.singleModify g (fun v st => (joinBytes (loByte v) (hiByte v), st))).pay (.swpb g) .plain)

/-- SETO (R342). -/
def execSeto (g : GA) (s : State) : Host.Outcome State Fault Refusal :=
  .next ((s.singleSet g 0xFFFF).pay (.seto g) .plain)

/-- ABS (R343): flags from the original value; only a negative operand is written. -/
def execAbs (g : GA) (s : State) : Host.Outcome State Fault Refusal :=
  let a := s.ea g .word
  let v := a.2.readWord a.1
  let t := v.2.setSt (setBit (setBit (lae v.1 v.2.st) bitC false) bitOv (v.1 == 0x8000#16))
  if v.1.msb then .next ((t.writeWord a.1 (0#16 - v.1)).pay (.abs g) .negative)
  else .next (t.pay (.abs g) .nonNegative)

end Sys2Proof.Machine
end

