-- ==== Sys2Proof/Machine/Execute.lean ====
section
/-! DEFINITION. X, which executes a word that is no part of the instruction stream (45_single_operand.md R332). The word may
be an X again, without end (60_exceptions.md R401). A chain runs up to `xChunk` words in one step; one that is longer is
kept in `State.xChain` and goes on in the next step, with no interrupt check, no scheduler test and no host call in between.
So a finite chain is one instruction, an endless chain is a run that never reaches an instruction boundary, and no bound is
invented. Only an endless chain may be ended by a reset (70_reset_and_hazards.md R473): one that has come back to what it was
and is marked so, or one that has no end for another reason, such as the words it draws (assumption 8). -/

namespace Sys2Proof.Machine

/-- What a word executed by X does, an X apart (`runChain` follows that one): the same meanings that `exec` calls. -/
def execPlain (i : Instr) (s : State) : Host.Outcome State Fault Refusal :=
  match i with
  | .szc src dst => execSzc src dst s
  | .szcb src dst => execSzcb src dst s
  | .s src dst => execS src dst s
  | .sb src dst => execSb src dst s
  | .c src dst => execC src dst s
  | .cb src dst => execCb src dst s
  | .a src dst => execA src dst s
  | .ab src dst => execAb src dst s
  | .mov src dst => execMov src dst s
  | .movb src dst => execMovb src dst s
  | .soc src dst => execSoc src dst s
  | .socb src dst => execSocb src dst s
  | .jmp disp => execJmp disp s
  | .jlt disp => execJlt disp s
  | .jle disp => execJle disp s
  | .jeq disp => execJeq disp s
  | .jhe disp => execJhe disp s
  | .jgt disp => execJgt disp s
  | .jne disp => execJne disp s
  | .jnc disp => execJnc disp s
  | .joc disp => execJoc disp s
  | .jno disp => execJno disp s
  | .jl disp => execJl disp s
  | .jh disp => execJh disp s
  | .jop disp => execJop disp s
  | .sbo disp => execSbo disp s
  | .sbz disp => execSbz disp s
  | .tb disp => execTb disp s
  | .coc src d => execCoc src d s
  | .czc src d => execCzc src d s
  | .xor src d => execXor src d s
  | .xop src n => execXop src n s
  | .mpy src d => execMpy src d s
  | .div src d => execDiv src d s
  | .ldcr src c => execLdcr src c s
  | .stcr dst c => execStcr dst c s
  | .sra w c => execSra w c s
  | .srl w c => execSrl w c s
  | .sla w c => execSla w c s
  | .src w c => execSrc w c s
  | .blwp g => execBlwp g s
  | .b g => execB g s
  | .x _ => .next s
  | .clr g => execClr g s
  | .neg g => execNeg g s
  | .inv g => execInv g s
  | .inc g => execInc g s
  | .inct g => execInct g s
  | .dec g => execDec g s
  | .dect g => execDect g s
  | .bl g => execBl g s
  | .swpb g => execSwpb g s
  | .seto g => execSeto g s
  | .abs g => execAbs g s
  | .li w => execLi w s
  | .ai w => execAi w s
  | .andi w => execAndi w s
  | .ori w => execOri w s
  | .ci w => execCi w s
  | .stwp w => execStwp w s
  | .stst w => execStst w s
  | .lwpi => execLwpi s
  | .limi => execLimi s
  | .idle => execIdle s
  | .rset => execRset s
  | .rtwp => execRtwp s
  | .ckon => execCkon s
  | .ckof => execCkof s
  | .lrex => execLrex s
  | .illegal0000 low => execIllegal0000 low s
  | .illegal0320 low => execIllegal0320 low s
  | .illegal0780 low => execIllegal0780 low s
  | .illegal0C00 low => execIllegal0C00 low s

/-- X's own part: the word at its operand's address (R332). -/
def State.xFetch (s : State) (g : GA) : Word × State := s.sourceWord g

/-- How many words of an X chain one step executes. -/
def xChunk : Nat := 16

/-- What the rest of a chain depends on that is at word `w` in state `s`. -/
def XSeen.of (w : Word) (s : State) : XSeen := ⟨w, s.pc, s.cartBank, s.mapper, s.pool, s.scratch, s.draws⟩

/-- A chain is kept once more: it is compared with what was last noted, and noted itself on its turns 1, 2, 4, 8, ..., so a
repetition of any period is found (assumption 8). -/
def XMark.next (m : XMark) (now : XSeen) : XMark where
  turns := m.turns + 1
  seen := if (m.turns + 1) &&& m.turns = 0 then some now else m.seen
  endless := m.endless || m.seen == some now

/-- Execute word `w` under X. `owed` is the base cost of the X's before it, added when the chain ends: the cost is X's base
cost plus that of the executed word (R332). `m` is what is known of the chain. -/
def runChain : Nat → XMark → Word → Nat → State → Host.Outcome State Fault Refusal
  | 0, m, w, owed, s => .next (s.setXChain (some ⟨w, owed, m.next (XSeen.of w s)⟩))
  | n + 1, m, w, owed, s =>
    match decodeWord w with
    | .x g =>
      let r := s.xFetch g
      runChain n m r.1 (owed + baseCycles s.md (.instr (.x g) .plain)) r.2
    | i =>
      match execPlain i s with
      | .next t => .next (t.addCycles owed)
      | .fault e => .fault e
      | .refused e => .refused e

/-- X (R332). -/
def execX (g : GA) (s : State) : Host.Outcome State Fault Refusal :=
  let r := s.xFetch g
  runChain xChunk XMark.fresh r.1 (baseCycles s.md (.instr (.x g) .plain)) r.2

/-- The word after the one an X chain is at, and the state in which it executes; none where the chain is at no X. -/
def chainNext (p : Word × State) : Option (Word × State) :=
  match decodeWord p.1 with
  | .x g => some (p.2.xFetch g)
  | _ => none

/-- Where going from `a` to `f a`, as long as there is one, comes to an end; none where it goes on without end. -/
def lastOf {α : Type} (f : α → Option α) (a : α) : Option α :=
  match f a with
  | some b => lastOf f b
  | none => some a
partial_fixpoint

/-- Where the chain at word `w` ends: the first word that is no X. None where every word is an X, without end
(60_exceptions.md R401), whether the chain repeats itself or goes on through the values it draws: `chainEnd_eq_none_iff` of
Laws/Chain.lean. There is no bound on the length (assumption 8). -/
def chainEnd (w : Word) (s : State) : Option (Word × State) := lastOf chainNext (w, s)

/-- The chain is the hang of 60_exceptions.md R401: it has repeated itself, or it has no end for whatever reason. -/
def State.hangs (s : State) (c : XChain) : Bool := c.mark.endless || (chainEnd c.word s).isNone

/-- An unfinished X chain goes on. -/
def resumeChain (c : XChain) (s : State) : Host.Outcome State Fault Refusal :=
  runChain xChunk c.mark c.word c.owed (s.setXChain none)

end Sys2Proof.Machine
end

