-- ==== Sys2Proof/Machine/HostInterface.lean ====
section
/-! DEFINITION. Reset, the save state and the host's calls (70_reset_and_hazards.md R470 to R475, R490 to R497). -/

namespace Sys2Proof.Machine

/-! ## Reset -/

/-- Every field at its reset value but PC and WP (10_state.md R68). `scratch` is kept, and `pool` too unless N changes
(R471). The host's breakpoint, its calls to come, the collaborators' inputs and the count of free values are not the
block's to reset (assumption 13). -/
def State.resetFields (s : State) (md : Descriptor) : State where
  md := md
  pc := 0x0000
  wp := 0x0000
  st := 0x0000
  instPc := 0x0000
  cycles := 0
  run := .halted
  intPending := false
  noIntCheck := false
  events := []
  cartBank := 0
  io := Controller.reset
  kbd := Keyboard.released
  mapper := Mapper.resetOf md
  tags := []
  pool := if md.banks = s.md.banks then s.pool else []
  scratch := s.scratch
  sched := { Scheduler.initial with bp := s.sched.bp, queue := s.sched.queue }
  xChain := none
  draws := s.draws
  devInputs := s.devInputs
  cruInputs := s.cruInputs

/-- `reset(machine_descriptor)` (R470): the fields, then the level-0 vector through the reset map, then the cycles those
reads added discarded. -/
def State.hostReset (s : State) (md : Descriptor) : State :=
  let s1 := s.resetFields md
  let w := s1.readWord 0x0000
  let p := w.2.readWord 0x0002
  ((p.2.setWp w.1).setPc p.1).setCycles 0

/-! ## The save state -/

/-- A pool word as the run-length code sees it: four bytes, the first the most significant (R496). -/
def bytesToWord32 (b0 b1 b2 b3 : Byte) : Nat := ((b0.toNat * 256 + b1.toNat) * 256 + b2.toNat) * 256 + b3.toNat

/-- Bytes grouped into 32-bit words (R496). -/
def groupWords : List Byte → List Nat
  | b0 :: b1 :: b2 :: b3 :: t => bytesToWord32 b0 b1 b2 b3 :: groupWords t
  | [] => []
  | [_] => []
  | [_, _] => []
  | [_, _, _] => []

/-- The four bytes of a pool word (R496). -/
def word32Bytes (n : Nat) : List Byte :=
  [BitVec.ofNat 8 (n / 16777216), BitVec.ofNat 8 (n / 65536), BitVec.ofNat 8 (n / 256), BitVec.ofNat 8 n]

/-- `Encode`, with `z` zero words seen and not written yet (R496). -/
def rleEncodeFrom : Nat → List Nat → List Nat
  | z, [] => if z = 0 then [] else [0, z]
  | z, w :: t =>
    if w = 0 then rleEncodeFrom (z + 1) t
    else if z = 0 then w :: rleEncodeFrom 0 t
    else 0 :: z :: w :: rleEncodeFrom 0 t

/-- `Encode` (R496): one pair (0, count) for each maximal run of zero words, every other word as it is. -/
def rleEncode (l : List Nat) : List Nat := rleEncodeFrom 0 l

/-- `Decode` (R496), but for the length test; none where the stream is malformed. -/
def rleDecode : List Nat → Option (List Nat)
  | [] => some []
  | 0 :: [] => none
  | 0 :: n :: t => if n = 0 then none else (rleDecode t).map (fun r => List.replicate n 0 ++ r)
  | (w + 1) :: t => (rleDecode t).map (fun r => (w + 1) :: r)

/-- The pool as M 32-bit words (R496). -/
def State.poolWords (s : State) : List Nat := groupWords (s.pool.toBytes 0 (s.md.banks * 4096))

/-- RAM that holds the given 32-bit words. -/
def poolOfWords (l : List Nat) : Memory := Memory.ofBytes 0 (l.flatMap word32Bytes)

/-- The image of the state (R495). -/
def State.image (s : State) : SaveImage where
  version := s.md.saveVersion
  pc := s.pc
  wp := s.wp
  st := s.st
  cycles := s.cycles
  run := s.run
  intPending := s.intPending
  noIntCheck := s.noIntCheck
  cartBank := s.cartBank
  io := s.io
  banks := s.md.banks
  mapper := s.mapper
  scratch := s.scratch.toBytes 0 256
  pool := rleEncode s.poolWords

/-- How many of pins 1 to 15 have request and enable both 1: what `int_count` must hold (60_exceptions.md R425). -/
def activePins (req en : BitVec 32) : Nat :=
  ([1, 2, 3, 4, 5, 6, 7, 8, 9, 10, 11, 12, 13, 14, 15].filter (fun p => req.getLsbD p && en.getLsbD p)).length

/-- A controller the rules allow: the count right, no request or enable outside pins 1 to 15, a sample no later than now
(10_state.md R61; 60_exceptions.md R425, R440). -/
def controllerOk (c : Controller) (now : Nat) : Bool :=
  decide (c.intCount = activePins c.req c.en) && (c.req &&& 0xFFFF0001#32 == 0) && (c.en &&& 0xFFFF0001#32 == 0)
  && decide (c.tBase ≤ now) && decide (c.tDelta ≤ (now - c.tBase) / 64)

/-- A mapper the rules allow: banks below N, the identity mapping in force while mapping is off (10_state.md R63). -/
def mapperOk (m : Mapper) (md : Descriptor) : Bool :=
  m.bank.all (fun b => decide (b < md.banks))
  && (m.active || md.swappable.all (fun r => decide (m.bank[r] = r.val % md.banks)))

/-- Every part of the image parses: the values are ones the machine can hold (R497, assumption 17). -/
def imageOk (md : Descriptor) (i : SaveImage) : Bool :=
  (i.pc.getLsbD 0 == false) && (i.wp.getLsbD 0 == false) && (i.st &&& 0x01F0 == 0)
  && controllerOk i.io i.cycles && mapperOk i.mapper md && decide (i.scratch.length = 256)

/-- The classifier table that a load computes from `REGION_MAP_INIT` and the visibility bit (R495). -/
def tagsFor (md : Descriptor) (visible : Bool) : List (Nat × RegionTag) :=
  if visible then
    sparseSet (regionInit md) (sparseSet (regionInit md) [] 0x400 .mapperRegs) 0x401 .mapperRegs
  else []

/-- The state with everything the image holds put in its place, at once (R497). -/
def State.restore (s : State) (i : SaveImage) (words : List Nat) : State where
  md := s.md
  pc := i.pc
  wp := i.wp
  st := i.st
  instPc := s.instPc
  cycles := i.cycles
  run := i.run
  intPending := i.intPending
  noIntCheck := i.noIntCheck
  events := s.events
  cartBank := i.cartBank
  io := i.io
  kbd := s.kbd
  mapper := i.mapper
  tags := tagsFor s.md i.mapper.visible
  pool := poolOfWords words
  scratch := Memory.ofBytes 0 i.scratch
  sched := s.sched
  xChain := s.xChain
  draws := s.draws
  devInputs := s.devInputs
  cruInputs := s.cruInputs

/-- `save_state()` (R497): no state changes; the answer is the image, or SaveStateIOFailure when the file layer fails or
the pool's code exceeds its capacity. -/
def State.saveState (s : State) (ioOk : Bool) : HostReply :=
  if ioOk && decide ((rleEncode s.poolWords).length ≤ rleCapacityOf s.md) then .saved s.image
  else .failed .saveStateIOFailure

/-- `load_state(image)` (R497): the version first, then every part, then the state replaced all at once; a failure changes
nothing. DESIGN CHOICE, unsafe (assumption 17): a failing file layer answers SaveStateIOFailure whatever the version tag is,
since the tag comes from the file; 60_exceptions.md R400 gives that failure no place in the order. -/
def State.loadState (s : State) (i : SaveImage) (ioOk : Bool) : HostReply × State :=
  if !ioOk then (.failed .saveStateIOFailure, s)
  else if i.version ≠ s.md.saveVersion then (.failed .saveStateVersionMismatch, s)
  else if i.banks ≠ s.md.banks then (.failed .saveStateIOFailure, s)
  else
    match rleDecode i.pool with
    | none => (.failed .saveStateIOFailure, s)
    | some words =>
      if words.length = poolWordCount s.md ∧ words.all (fun w => decide (w < 4294967296)) ∧ imageOk s.md i then
        (.done, s.restore i words)
      else (.failed .saveStateIOFailure, s)

/-! ## Error classes -/

/-- The cause codes of 60_exceptions.md R400. -/
def causeCode : ErrorClass → Nat
  | .invalidOpcode => 1
  | .unsupportedExtendedOperation => 2
  | .saveStateVersionMismatch => 3
  | .saveStateIOFailure => 4
  | .bankIndexOutOfRange => 5

/-- The error class an event belongs to (60_exceptions.md R400). -/
def Event.errorClass : Event → Option ErrorClass
  | .invalidOpcode _ _ => some .invalidOpcode
  | .unsupportedExtendedOperation _ _ => some .unsupportedExtendedOperation
  | .devRead _ _ _ => none
  | .devWrite _ _ _ _ => none
  | .cruOut _ _ => none

/-! ## Host calls -/

/-- The answer of the call being served. -/
def State.answer (s : State) (r : HostReply) : State := s.setSched { s.sched with reply := some r }

/-- `read_memory(a, n)` (R490): MemRead with no cycles added. Another width than 1 or 2 is refused. -/
def State.hostRead (s : State) (a : Word) (n : Nat) : State :=
  if n = 1 then
    let r := s.readByte a
    (r.2.setCycles s.cycles).answer (.value (zextByte r.1))
  else if n = 2 then
    let r := s.readWord a
    (r.2.setCycles s.cycles).answer (.value r.1)
  else s.answer .refused

/-- `write_memory(a, n, v)` (R490): MemWrite with no cycles added. -/
def State.hostWrite (s : State) (a : Word) (n : Nat) (v : Word) : State :=
  if n = 1 then ((s.writeByte a (loByte v)).setCycles s.cycles).answer .done
  else if n = 2 then ((s.writeWord a v).setCycles s.cycles).answer .done
  else s.answer .refused

/-- `read_cru(a, c)` (R490): c is 1 to 16, another count is refused and changes nothing. -/
def State.hostReadCru (s : State) (a : CruAddr) (c : Nat) : State :=
  if 1 ≤ c ∧ c ≤ 16 then
    let r := s.cruReadBits a 0 0 c
    r.2.answer (.value r.1)
  else s.answer .refused

/-- `write_cru(a, c, v)` (R490). -/
def State.hostWriteCru (s : State) (a : CruAddr) (c : Nat) (v : Word) : State :=
  if 1 ≤ c ∧ c ≤ 16 then (s.cruWriteBits a v 0 c).answer .done else s.answer .refused

/-- `run_one_burst` up to its loop (R478): Halted becomes Running, the budget starts now. -/
def State.beginBurst (s : State) : State :=
  let s1 := if s.run = .halted then s.setRun .running else s
  s1.setSched { s1.sched with burstStart := s1.cycles, inBurst := true, first := true }

/-- One host call (R490), and the host's key and joystick input (60_exceptions.md R450). A reset with parameters outside
the spec's constraints is refused (assumption 17). DESIGN CHOICE, unsafe (assumption 29): raise_interrupt and
clear_interrupt with a pin outside 1 to 15 change nothing (60_exceptions.md R426) and answer `done`, as with any pin; the
spec gives these calls no answer. -/
def State.hostCall (s : State) : HostCall → State
  | .reset md => if descriptorOk md then (s.hostReset md).answer .done else s.answer .refused
  | .runOneBurst => s.beginBurst
  | .raiseInterrupt p => (s.setIo (s.io.raise p)).answer .done
  | .clearInterrupt p => (s.setIo (s.io.clear p)).answer .done
  | .readMemory a n => s.hostRead a n
  | .writeMemory a n v => s.hostWrite a n v
  | .readCru a c => s.hostReadCru a c
  | .writeCru a c v => s.hostWriteCru a c v
  | .stop => (s.setSched { s.sched with stopReq := true }).answer .done
  | .setBreakpoint bp => (s.setSched { s.sched with bp := bp }).answer .done
  | .saveState ioOk => s.answer (s.saveState ioOk)
  | .loadState image ioOk =>
    let r := s.loadState image ioOk
    r.2.answer r.1
  | .setKeys keys => (s.setKbd { s.kbd with keys := keys }).answer .done
  | .setJoysticks joy1 joy2 => (s.setKbd { s.kbd with joy1 := joy1, joy2 := joy2 }).answer .done

end Sys2Proof.Machine
end

