-- ==== Sys2Proof/Machine/Scheduler.lean ====
section
/-! DEFINITION. The run-loop scheduler (70_reset_and_hazards.md R478 to R484), and where the model's step fetches. One step
is one turn of the loop of R478; between bursts it serves the next host call, or begins a burst when none waits
(assumption 7). -/

namespace Sys2Proof.Machine

/-- The host's own breakpoint predicate number k, of which nothing is known (70_reset_and_hazards.md R482). Free. -/
opaque customBreakpoint : Nat → State → Bool

/-- Whether the breakpoint predicate holds (R482). -/
def State.atBreakpoint (s : State) : Bool :=
  match s.sched.bp with
  | .never => false
  | .always => true
  | .pcIn addrs => addrs.contains s.pc
  | .custom k => customBreakpoint k s

/-- A burst returns (R478). -/
def State.endBurst (s : State) (status : BurstStatus) : State :=
  s.setSched { s.sched with inBurst := false, first := false, status := some status }

/-- The budget test after a step; at a FRAME return the VDP collaborator raises pin 2 (R480, 60_exceptions.md R427). -/
def State.frameTest (s : State) : State :=
  if s.md.cyclesPerFrame ≤ s.cycles - s.sched.burstStart then (s.setIo (s.io.raise 2)).endBurst .frame else s

/-- What follows an instruction's effect and cost: the interrupt check, then the budget test (40_operands.md R211,
60_exceptions.md R417). In the middle of an X chain, nothing (60_exceptions.md R401). -/
def State.endStep (s : State) : State := if s.xChain.isSome then s else s.interruptCheck.frameTest

/-- One idle step and the budget test (60_exceptions.md R416). -/
def State.idleStep (s : State) : State := ((s.addCycles s.md.idleQuantum).interruptCheck).frameTest

/-- The stop request is seen (R484). -/
def State.takeStop (s : State) : State :=
  ((s.setSched { s.sched with stopReq := false }).setRun .halted).endBurst .halt

/-- The first of R478's tests that ends the burst before a step, if one does. -/
inductive LoopTurn where
  | stop
  | breakpoint
  | instruction
  | idle
deriving DecidableEq, Repr

/-- What this turn of the loop does (R478): the stop request first, then the breakpoint, which is not tested before a
burst's first step or while idle (R482). -/
def State.loopTurn (s : State) : LoopTurn :=
  if s.sched.stopReq then .stop
  else if s.run = .running then
    if !s.sched.first && s.atBreakpoint then .breakpoint else .instruction
  else .idle

/-- `first <- false` (R478). -/
def State.clearFirst (s : State) : State := s.setSched { s.sched with first := false }

/-- The fetch of 40_operands.md R211: pc0 noted, the opcode word read, PC advanced. -/
def State.fetchOpcode (s : State) : Word × State := (s.setInstPc s.pc).fetch

/-- Inside a burst. A halted machine is in none (R474). -/
def State.bursting (s : State) : Bool := s.sched.inBurst && s.run != .halted

/-- The state in which this step's turn of the loop begins: the burst under way, or one that begins now (R478). -/
def State.enterBurst (s : State) : State := if s.bursting then s else s.beginBurst

/-- Whether a call is a reset. -/
def HostCall.isReset : HostCall → Bool
  | .reset _ => true
  | .runOneBurst | .raiseInterrupt _ | .clearInterrupt _ | .readMemory _ _ | .writeMemory _ _ _ | .readCru _ _
  | .writeCru _ _ _ | .stop | .setBreakpoint _ | .saveState _ | .loadState _ _ | .setKeys _ | .setJoysticks _ _ => false

/-- Whether the host may make this call now: between bursts any (R491); in the middle of an X chain, which is the middle of
an instruction, none (20_memory.md R146), but that a reset ends one that is a hang (R473). -/
def State.admits (s : State) (call : HostCall) : Bool :=
  match s.xChain with
  | some c => call.isReset && s.hangs c
  | none => !s.bursting

/-- The host call this step serves, if it serves one, and the calls after it. -/
def State.pendingCall (s : State) : Option (HostCall × List HostCall) :=
  match s.sched.queue with
  | [] => none
  | call :: rest => if s.admits call then some (call, rest) else none

/-- A host call is served. -/
def State.serve (s : State) (call : HostCall) (rest : List HostCall) : State :=
  (s.setSched { s.sched with queue := rest }).hostCall call

/-- What follows the meaning of an instruction, whatever it answered. -/
def afterExec : Host.Outcome State Fault Refusal → Host.Outcome State Fault Refusal
  | .next t => .next t.endStep
  | .fault e => .fault e
  | .refused e => .refused e

/-! ## Placing an instruction where the next step fetches it -/

/-- A byte put where address `a` is backed, the ROM images of the descriptor included. An address that nothing backs, a
page register among them, is first retagged to scratchpad (assumption 24). -/
def State.plantByte (s : State) (a : Word) (v : Byte) : State :=
  match s.home a with
  | .console off => s.setMd { s.md with consoleRom := Memory.write s.md.consoleRom off v }
  | .scratch off => s.setScratch (s.scratch.write off v)
  | .pool off => s.setPool (s.pool.write off v)
  | .cart off =>
    s.setMd { s.md with cartRom := Memory.write s.md.cartRom off v, cartBanks := max s.md.cartBanks (off / 8192 + 1) }
  | .page _ _ | .port _ =>
    let t := s.setTag (a.toNat / 16) .scratch
    t.setScratch (t.scratch.write (a.toNat % 256) v)

/-- Bytes put at consecutive addresses. -/
def State.plantBytes (s : State) (a : Word) : List Byte → State
  | [] => s
  | b :: t => (s.plantByte a b).plantBytes (a + 1) t

/-- Nothing stands between the machine and the fetch: no unfinished X chain, no stop request, no host call before the
burst, no idling, no breakpoint test. -/
def State.readyToFetch (s : State) : State :=
  let run := if s.run = .idleWaiting then RunState.running else s.run
  let queue := if s.bursting then s.sched.queue else []
  ((s.setXChain none).setRun run).setSched
    { s.sched with stopReq := false, queue := queue, first := s.bursting || s.sched.first }

end Sys2Proof.Machine
end

