-- ==== Sys2Proof/Machine/Step.lean ====
section
/-! DEFINITION. One step of the machine: a host call served, an X chain continued, or one turn of the run loop
(70_reset_and_hazards.md R478): stop, breakpoint, one instruction (40_operands.md R211) or one idle step
(60_exceptions.md R416). -/

namespace Sys2Proof.Machine

/-- One turn of the run loop inside a burst (R478). -/
def State.turn (s : State) : Host.Outcome State Fault Refusal :=
  match s.loopTurn with
  | .stop => .next s.takeStop
  | .breakpoint => .next (s.endBurst .breakpoint)
  | .idle => .next s.clearFirst.idleStep
  | .instruction =>
    let f := s.clearFirst.fetchOpcode
    afterExec (exec (decodeWord f.1) f.2)

/-- One step. -/
def step (s : State) : Host.Outcome State Fault Refusal :=
  match s.pendingCall with
  | some c => .next (s.serve c.1 c.2)
  | none =>
    match s.xChain with
    | some c => afterExec (resumeChain c s)
    | none => s.enterBurst.turn

/-- The state with the instruction `w` (bit 0 the least significant bit of its first word, bits at and above `nbits` 0)
stored where `step` fetches its next instruction, ready for that fetch. -/
def State.withFetchWord (s : State) (nbits w : Nat) : State := s.readyToFetch.plantBytes s.pc (tableBytes nbits w)

end Sys2Proof.Machine
end

