-- ==== Sys2Proof/Safety.lean ====
section
/-! DEFINITION. What counts as a state the rules allow: the invariants that spec/ states of the machine, together. Every
state of a run has them; a state that no run reaches may not. -/

namespace Sys2Proof.Machine

/-- The tag of granule `g`. -/
def State.granuleTag (s : State) (g : Nat) : RegionTag := sparseGet (regionInit s.md) s.tags g

/-- The machine's invariants. -/
structure State.Inv (s : State) : Prop where
  /-- PC is always even (10_state.md R53). -/
  pcEven : s.pc.getLsbD 0 = false
  /-- WP is always even (10_state.md R52). -/
  wpEven : s.wp.getLsbD 0 = false
  /-- The reserved bits 8 to 4 of ST are 0 (10_state.md R54). -/
  stReserved : s.st &&& 0x01F0 = 0
  /-- `int_count` is the number of pins with request and enable both 1 (60_exceptions.md R425). -/
  intCount : s.io.intCount = activePins s.io.req s.io.en
  /-- Only pins 1 to 15 request (10_state.md R61). -/
  reqPins : s.io.req &&& 0xFFFF0001#32 = 0
  /-- Only pins 1 to 15 are enabled (10_state.md R61). -/
  enPins : s.io.en &&& 0xFFFF0001#32 = 0
  /-- The timer's sample period began in the past (10_state.md R60). -/
  timerBase : s.io.tBase ≤ s.cycles
  /-- The last computed delta is not ahead of the counter, so k >= 0 (60_exceptions.md R440). -/
  timerDelta : s.io.tDelta ≤ (s.cycles - s.io.tBase) / 64
  /-- N >= 16 (00_scope.md R9). -/
  enoughBanks : 16 ≤ s.md.banks
  /-- `bank[r] < N` (10_state.md R63). -/
  bankBound : ∀ r : Fin 16, s.mapper.bank[r] < s.md.banks
  /-- The identity mapping is in force while mapping is off (10_state.md R63). -/
  bankIdentity : s.mapper.active = false → ∀ r ∈ s.md.swappable, s.mapper.bank[r] = r.val % s.md.banks
  /-- While `visible` = 1 the register window carries MAPPER_REGS (20_memory.md R130). -/
  windowTag : s.mapper.visible = true → s.granuleTag 0x400 = .mapperRegs ∧ s.granuleTag 0x401 = .mapperRegs
  /-- The classifier table is in its one canonical form. -/
  tagsWf : sparseWf (regionInit s.md) s.tags
  /-- The pool is in its one canonical form. -/
  poolWf : s.pool.wf
  /-- The scratchpad is in its one canonical form. -/
  scratchWf : s.scratch.wf
  /-- The pool has N * 4096 bytes (10_state.md R65). -/
  poolBound : ∀ p ∈ s.pool, p.1 < s.md.banks * 4096
  /-- The scratchpad has 256 bytes (10_state.md R65). -/
  scratchBound : ∀ p ∈ s.scratch, p.1 < 256
  /-- A burst began in the past (10_state.md R66). -/
  burstStarted : s.sched.inBurst = true → s.sched.burstStart ≤ s.cycles
  /-- A halted machine is in no burst (70_reset_and_hazards.md R474). -/
  haltedIdle : s.run = .halted → s.sched.inBurst = false

end Sys2Proof.Machine
end

