-- ==== Sys2Proof/Certificates/Slice0/Obligations.lean ====
section
/-! DEFINITION. The statements for the provers. `Sys2Proof.Claims` holds what they share: the rules' flag lists, written bit by
bit from spec/40_operands.md, and the result forms of the instruction families. In every result statement the state that is
answered is written out in full, so what it does not mention is unchanged up to what the bus accesses it names do; the frame
statements (ExecFrame, MemoryFrame, PcAdvance) say that part on its own. -/

namespace Sys2Proof.Claims

open Sys2Proof.Machine

/-! ## The status register, bit by bit (10_state.md R54) -/

/-- ST `new` is ST `old` with the listed bits as given and every other bit kept. -/
def StIs (old new : Word) (bits : List (Nat × Bool)) : Prop :=
  ∀ j, j < 16 → new.getLsbD j = (bits.lookup j).getD (old.getLsbD j)

/-- `LAE_w(v)` (R205). -/
def laeBits {w : Nat} (v : BitVec w) : List (Nat × Bool) :=
  [(15, decide (v ≠ 0#w)), (14, decide (v.getLsbD (w - 1) = false ∧ v ≠ 0#w)), (13, decide (v = 0#w))]

/-- The flags of `ADD_w(d, s)` (R206). -/
def addBits {w : Nat} (d s : BitVec w) : List (Nat × Bool) :=
  [(12, decide (2 ^ w ≤ d.toNat + s.toNat)),
   (11, decide (d.getLsbD (w - 1) = s.getLsbD (w - 1) ∧ (d + s).getLsbD (w - 1) ≠ d.getLsbD (w - 1)))] ++ laeBits (d + s)

/-- The flags of `SUB_w(d, s)` (R207). -/
def subBits {w : Nat} (d s : BitVec w) : List (Nat × Bool) :=
  [(12, decide (s.toNat ≤ d.toNat)),
   (11, decide (d.getLsbD (w - 1) ≠ s.getLsbD (w - 1) ∧ (d - s).getLsbD (w - 1) ≠ d.getLsbD (w - 1)))] ++ laeBits (d - s)

/-- The flags of `CMP_w(s, d)` (R208). -/
def cmpBits {w : Nat} (s d : BitVec w) : List (Nat × Bool) :=
  [(15, decide (d.toNat < s.toNat)), (14, decide (d.toInt < s.toInt)), (13, decide (s = d))]

/-- `ST.OP <- parity(b)` (R209): an odd number of 1 bits. -/
def parityBits (b : Byte) : List (Nat × Bool) :=
  [(10, decide (((List.range 8).filter (fun k => b.getLsbD k)).length % 2 = 1))]

/-- IM replaced by the 4-bit number `im`. -/
def maskBits (im : Nat) : List (Nat × Bool) :=
  [(0, im.testBit 0), (1, im.testBit 1), (2, im.testBit 2), (3, im.testBit 3)]

/-- The base cost of an instruction (70_reset_and_hazards.md R519). -/
def cost (s : State) (i : Instr) (o : CostOutcome) : Nat := baseCycles s.md (.instr i o)

/-! ## Operands -/

/-- `RA(i)` (00_scope.md R13). -/
def regAddr (s : State) (i : Nat) : Word := BitVec.ofNat 16 (s.wp.toNat + 2 * i)

/-- The address of an operand, the operand there, and the state after both (40_operands.md R203 steps 2 and 3, or 4 and 5). -/
def wordOperand (s : State) (g : GA) : Word × Word × State :=
  let a := s.ea g .word
  let v := a.2.readWord a.1
  (a.1, v.1, v.2)

/-- The same for a byte instruction. -/
def byteOperand (s : State) (g : GA) : Word × Byte × State :=
  let a := s.ea g .byte
  let v := a.2.readByte a.1
  (a.1, v.1, v.2)

/-! ## Result forms -/

/-- A word instruction that reads, computes and writes its destination (41_dual_operand.md R230): `f` gives the result,
`bits` the flags, of destination and source. -/
def DualWord (i : Instr) (gs gd : GA) (f : (d v : Word) → Word) (bits : (d v : Word) → List (Nat × Bool)) : Prop :=
  ∀ s : State,
    let src := wordOperand s gs
    let dst := wordOperand src.2.2 gd
    ∃ st', StIs s.st st' (bits dst.2.1 src.2.1) ∧
      exec i s = .next (((dst.2.2.setSt st').writeWord dst.1 (f dst.2.1 src.2.1)).addCycles (cost s i .plain))

/-- The same for a byte instruction. -/
def DualByte (i : Instr) (gs gd : GA) (f : (d v : Byte) → Byte) (bits : (d v : Byte) → List (Nat × Bool)) : Prop :=
  ∀ s : State,
    let src := byteOperand s gs
    let dst := byteOperand src.2.2 gd
    ∃ st', StIs s.st st' (bits dst.2.1 src.2.1) ∧
      exec i s = .next (((dst.2.2.setSt st').writeByte dst.1 (f dst.2.1 src.2.1)).addCycles (cost s i .plain))

/-- A one-operand word instruction that reads, computes and writes back. -/
def SingleWord (i : Instr) (g : GA) (f : Word → Word) (bits : Word → List (Nat × Bool)) : Prop :=
  ∀ s : State,
    let x := wordOperand s g
    ∃ st', StIs s.st st' (bits x.2.1) ∧
      exec i s = .next (((x.2.2.setSt st').writeWord x.1 (f x.2.1)).addCycles (cost s i .plain))

/-- A jump (43_jumps_crubit.md R280): `cond` reads L>, A>, EQ, C, OV and OP of ST. -/
def JumpIs (i : Instr) (disp : Byte) (cond : (l a e c o p : Bool) → Bool) : Prop :=
  ∀ s : State,
    exec i s = .next
      (if cond (s.st.getLsbD 15) (s.st.getLsbD 14) (s.st.getLsbD 13) (s.st.getLsbD 12) (s.st.getLsbD 11) (s.st.getLsbD 10)
       then (s.setPc (BitVec.ofInt 16 (s.pc.toNat + 2 * disp.toInt))).addCycles (cost s i .taken)
       else s.addCycles (cost s i .notTaken))

/-- An instruction with an immediate word that reads, computes and writes register W (46_immediate_control.md R360). -/
def ImmediateWord (i : Instr) (w : Reg) (f : (x imm : Word) → Word) (bits : (x imm : Word) → List (Nat × Bool)) : Prop :=
  ∀ s : State,
    let imm := s.fetch
    let x := imm.2.readWord (regAddr s w.toNat)
    ∃ st', StIs s.st st' (bits x.1 imm.1) ∧
      exec i s = .next (((x.2.setSt st').writeWord (regAddr s w.toNat) (f x.1 imm.1)).addCycles (cost s i .plain))

/-- The CRU base in R12: the base, and the state after R12 is read (43_jumps_crubit.md R296). -/
def cruBaseOf (s : State) : Nat × State :=
  let x := s.readWord (regAddr s 12)
  (x.1.toNat / 2 % 4096, x.2)

/-- The effective count of LDCR and STCR (44_cru_multi_shift.md R310). -/
def transferCount (c : BitVec 4) : Nat := if c.toNat = 0 then 16 else c.toNat

/-- Bits 0 to n-1 of `v` written to CRU addresses base, base + 1, ... in this order. -/
def sendBits (s : State) (base n : Nat) (v : Nat) : State :=
  (List.range n).foldl (fun u k => u.cruWrite (BitVec.ofNat 12 (base + k)) (v.testBit k)) s

/-- CRU addresses base, base + 1, ... read in this order into bits 0 to n-1; the other bits are 0. -/
def receiveBits (s : State) (base n : Nat) : Nat × State :=
  (List.range n).foldl
    (fun p k =>
      let r := p.2.cruRead (BitVec.ofNat 12 (base + k))
      (if r.1 then p.1 + 2 ^ k else p.1, r.2)) (0, s)

/-- A shift's count, and the state after it is known (44_cru_multi_shift.md R314). -/
def countOf (s : State) (c : BitVec 4) : Nat × State :=
  if c.toNat = 0 then
    let x := s.readWord (regAddr s 0)
    (if x.1.toNat % 16 = 0 then 16 else x.1.toNat % 16, x.2)
  else (c.toNat, s)

/-- A shift (44_cru_multi_shift.md R313): `f` gives the result, `bits` the flags, of the value and the count. -/
def ShiftIs (i : Instr) (w : Reg) (c : BitVec 4) (f : Word → Nat → Word) (bits : Word → Nat → List (Nat × Bool)) : Prop :=
  ∀ s : State,
    let n := countOf s c
    let x := n.2.readWord (regAddr s w.toNat)
    ∃ st', StIs s.st st' (bits x.1 n.1) ∧
      exec i s = .next (((x.2.setSt st').writeWord (regAddr s w.toNat) (f x.1 n.1)).addCycles (cost s i (.shifted n.1)))

/-- The three saves of a context switch into the workspace at the even address `wp` (60_exceptions.md R410). -/
def saveContext (s : State) (wp owp opc ost : Word) : State :=
  ((s.writeWord (wp + 26) owp).writeWord (wp + 28) opc).writeWord (wp + 30) ost

/-! ## Frames -/

/-- An address of RAM: scratchpad or expansion RAM (20_memory.md R116, R117). -/
def Ram (s : State) (a : Word) : Prop := s.tagAt a = .scratch ∨ s.tagAt a = .expRam

/-- An address where a store changes what other addresses mean: a page register or a banked cartridge. -/
def Selector (s : State) (a : Word) : Prop := s.tagAt a = .mapperRegs ∨ s.tagAt a = .cartBanked

/-- The two bytes of the word that holds address `a`. -/
def wordBytesAt (a : Word) : List Word := [evenAddr a, evenAddr a + 1]

/-- The bytes of register i. -/
def regBytesAt (s : State) (i : Nat) : List Word := wordBytesAt (regAddr s i)

/-- The bytes an operand's own resolution stores: the register it increments. -/
def eaStores (s : State) : GA → List Word
  | .reg _ | .ind _ | .sym | .idx _ => []
  | .inc n => regBytesAt s n.toNat

/-- The bytes of the context that is saved at the workspace `nwp` names. -/
def contextStores (nwp : Word) : List Word :=
  wordBytesAt (evenAddr nwp + 26) ++ wordBytesAt (evenAddr nwp + 28) ++ wordBytesAt (evenAddr nwp + 30)

/-- The addresses of the bytes an instruction stores to, X apart, computed with the functions its meaning uses. -/
def stores (s : State) : Instr → List Word
  | .szc gs gd | .s gs gd | .a gs gd | .soc gs gd | .mov gs gd =>
    eaStores s gs ++ eaStores s gd ++ wordBytesAt ((wordOperand s gs).2.2.ea gd .word).1
  | .szcb gs gd | .sb gs gd | .ab gs gd | .socb gs gd | .movb gs gd =>
    eaStores s gs ++ eaStores s gd ++ [((byteOperand s gs).2.2.ea gd .byte).1]
  | .c gs gd | .cb gs gd => eaStores s gs ++ eaStores s gd
  | .jmp _ | .jlt _ | .jle _ | .jeq _ | .jhe _ | .jgt _ | .jne _ | .jnc _ | .joc _ | .jno _ | .jl _ | .jh _ | .jop _ => []
  | .sbo _ | .sbz _ | .tb _ => []
  | .coc gs _ | .czc gs _ | .ldcr gs _ | .b gs => eaStores s gs
  | .xor gs d => eaStores s gs ++ regBytesAt s d.toNat
  | .xop gs n =>
    let nwp := (s.ea gs .word).2.readWord (BitVec.ofNat 16 (0x40 + 4 * n.toNat))
    eaStores s gs ++ contextStores nwp.1 ++ wordBytesAt (evenAddr nwp.1 + 22)
  | .mpy gs d => eaStores s gs ++ regBytesAt s d.toNat ++ regBytesAt s (d.toNat + 1)
  | .div gs d =>
    let v := wordOperand s gs
    let hi := v.2.2.readWord (regAddr s d.toNat)
    eaStores s gs ++ (if v.2.1.toNat ≤ hi.1.toNat then [] else regBytesAt s d.toNat ++ regBytesAt s (d.toNat + 1))
  | .stcr gd c =>
    eaStores s gd ++
      (if transferCount c ≤ 8 then [(s.ea gd .byte).1] else wordBytesAt (s.ea gd .word).1)
  | .sra w _ | .srl w _ | .sla w _ | .src w _ => regBytesAt s w.toNat
  | .blwp g => eaStores s g ++ contextStores ((s.ea g .word).2.readWord (s.ea g .word).1).1
  | .x _ => []
  | .clr g | .neg g | .inv g | .inc g | .inct g | .dec g | .dect g | .swpb g | .seto g =>
    eaStores s g ++ wordBytesAt (s.ea g .word).1
  | .bl g => eaStores s g ++ regBytesAt s 11
  | .abs g => eaStores s g ++ (if (wordOperand s g).2.1.getLsbD 15 then wordBytesAt (s.ea g .word).1 else [])
  | .li w | .ai w | .andi w | .ori w | .stwp w | .stst w => regBytesAt s w.toNat
  | .ci _ | .lwpi | .limi => []
  | .idle | .rset | .rtwp | .ckon | .ckof | .lrex => []
  | .illegal0000 _ | .illegal0320 _ | .illegal0780 _ | .illegal0C00 _ => []

/-- X, which runs another instruction. -/
def isX : Instr → Bool
  | .x _ => true
  | _ => false

/-- The instructions that write CRU bits. -/
def writesCru : Instr → Bool
  | .sbo _ | .sbz _ | .ldcr _ _ => true
  | _ => false

/-- The instructions that reach the CRU. -/
def reachesCru : Instr → Bool
  | .sbo _ | .sbz _ | .tb _ | .ldcr _ _ | .stcr _ _ => true
  | _ => false

/-- The instructions that write WP (10_state.md R52). -/
def writesWp : Instr → Bool
  | .lwpi | .blwp _ | .xop _ _ | .rtwp => true
  | _ => false

/-- The instructions that suppress the next interrupt check (60_exceptions.md R413). -/
def suppresses : Instr → Bool
  | .blwp _ | .xop _ _ => true
  | _ => false

/-- The instructions that set PC to something else than the word after them. -/
def branches : Instr → Bool
  | .jmp _ | .jlt _ | .jle _ | .jeq _ | .jhe _ | .jgt _ | .jne _ | .jnc _ | .joc _ | .jno _ | .jl _ | .jh _ | .jop _ => true
  | .b _ | .bl _ | .blwp _ | .xop _ _ | .rtwp | .x _ => true
  | _ => false

/-- Controllers that differ at most in their requests and the count of them. -/
def SameButRequests (c d : Controller) : Prop :=
  d.timerMode = c.timerMode ∧ d.en = c.en ∧ d.clock = c.clock ∧ d.dec = c.dec ∧ d.tBase = c.tBase ∧ d.tDelta = c.tDelta ∧
  d.col = c.col ∧ d.caps = c.caps

/-! ## Bus penalties and collaborators -/

/-- The cycles that one access to a granule of tag `t` adds (20_memory.md R122). -/
def penalty (s : State) (t : RegionTag) : Nat := if is8Bit s.md t then s.md.wait8 else 0

/-- The cycles that one store there adds: its own access, and the read before it where the machine reads first (R106). -/
def storePenalty (s : State) (t : RegionTag) : Nat := (if s.md.readBeforeWrite then 2 else 1) * penalty s t

/-- What an accessed collaborator does with its reactions to come (20_memory.md R121): nothing when there is none. -/
def reacts (u : State) : List DevReaction → State
  | [] => u
  | .quiet :: rest => { u with devInputs := rest }
  | .raise p :: rest => { u with devInputs := rest, io := u.io.raise p }
  | .clear p :: rest => { u with devInputs := rest, io := u.io.clear p }

/-! ## X chains -/

/-- What the X chain at `p`, a word, the state in which it executes and the base cycles of the X's before it, comes to: the
same of the k-th word after it (45_single_operand.md R332). It stops at the first word that is no X. -/
def trailFrom (p : Word × State × Nat) : Nat → Word × State × Nat
  | 0 => p
  | k + 1 =>
    let q := trailFrom p k
    match decodeWord q.1 with
    | .x h =>
      let x := wordOperand q.2.1 h
      (x.2.1, x.2.2, q.2.2 + cost q.2.1 (.x h) .plain)
    | _ => q

/-- The chain that starts with `X g`. -/
def trail (s : State) (g : GA) : Nat → Word × State × Nat :=
  let x := wordOperand s g
  trailFrom (x.2.1, x.2.2, cost s (.x g) .plain)

/-- The open chain `c` of `s` is a hang: it is marked endless, or every word it comes to is an X (60_exceptions.md R401). -/
def Hang (s : State) (c : XChain) : Prop :=
  c.mark.endless = true ∨ ∀ n, isX (decodeWord (trailFrom (c.word, s, c.owed) n).1) = true

/-! ## Encodings -/

/-- The bits of an instruction's word that its decoding looks at (30_encoding.md R187). -/
def caredBits : Instr → Word
  | .li _ | .ai _ | .andi _ | .ori _ | .ci _ | .stwp _ | .stst _ => 0xFFEF
  | .lwpi | .limi => 0xFFE0
  | .idle | .rset | .rtwp | .ckon | .ckof | .lrex => 0xFFE0
  | _ => 0xFFFF

end Sys2Proof.Claims

open Sys2Proof Sys2Proof.Machine Sys2Proof.Claims

/-! ## Encoding -/

/-- Every well-formed instruction decodes from its encoding, whatever follows it. -/
def Obligations.DecodeEncode : Prop :=
  ∀ (i : Instr) (rest : List Byte), i.wf = true → decode (encodeBytes i ++ rest) = .ok (i, rest)

/-- R170, R189: every word is in the row of the instruction it decodes to, and in no other row. -/
def Obligations.OneRowPerWord : Prop :=
  ∀ w : Word,
    (decodeWord w).wf = true ∧ w &&& (decodeWord w).row.2 = (decodeWord w).row.1 ∧
    ∀ i : Instr, w &&& i.row.2 = i.row.1 → i.row = (decodeWord w).row

/-- R187: two words that differ in don't-care bits only decode to the same instruction, and all other bits matter. -/
def Obligations.DontCareBits : Prop :=
  ∀ w : Word,
    encodeWord (decodeWord w) = w &&& caredBits (decodeWord w) ∧
    ∀ v : Word, decodeWord v = decodeWord w ↔ v &&& caredBits (decodeWord w) = w &&& caredBits (decodeWord w)

/-- Words that the spec's examples write out. -/
def Obligations.SampleWords : Prop :=
  decodeWord 0xA081 = .a (.reg 1) (.reg 2) ∧ decodeWord 0xC8B1 = .mov (.inc 1) (.idx 2) ∧
  decodeWord 0xD0A0 = .movb .sym (.reg 2) ∧ decodeWord 0x2C60 = .xop .sym 1 ∧ decodeWord 0x3C81 = .div (.reg 1) 2 ∧
  decodeWord 0x1305 = .jeq 5 ∧ decodeWord 0x30C1 = .ldcr (.reg 1) 3 ∧ decodeWord 0x3602 = .stcr (.reg 2) 8 ∧
  decodeWord 0x0841 = .sra 1 4 ∧ decodeWord 0x0B41 = .src 1 4 ∧ decodeWord 0x0420 = .blwp .sym ∧
  decodeWord 0x045B = .b (.ind 11) ∧ decodeWord 0x0210 = .li 0 ∧ decodeWord 0x02E0 = .lwpi ∧
  decodeWord 0x0385 = .rtwp ∧ decodeWord 0x0000 = .illegal0000 0 ∧ decodeWord 0x1000 = .jmp 0

/-! ## Steps -/

/-- R211: when the bytes at PC decode to i and it is an instruction's turn, step is exec of i on the state with PC past the
word and the fetch paid, and then the end-of-step tests, which an X chain in its middle puts off (the model's choice, assumption
8). -/
def Obligations.StepRunsDecoded : Prop :=
  ∀ (s : State) (i : Instr) (hi lo : Byte),
    s.pendingCall = none → s.xChain = none → s.enterBurst.loopTurn = .instruction →
    s.pc.getLsbD 0 = false → s.peek s.pc = some hi → s.peek (s.pc + 1) = some lo → decode [hi, lo] = .ok (i, []) →
    let f := ((s.enterBurst.clearFirst.setInstPc s.pc).addCycles (if is8Bit s.md (s.tagAt s.pc) then s.md.wait8 else 0)).setPc
      (s.pc + 2)
    i.wf = true ∧ ∃ t, exec i f = .next t ∧ step s = .next (if t.xChain.isSome then t else t.interruptCheck.frameTest)

/-- R401: every instruction on every state has a next state, and so has every step. That an endless X chain is a run of such
steps is the model's choice (assumption 8). -/
def Obligations.EveryStepCompletes : Prop :=
  (∀ (i : Instr) (s : State), ∃ t, exec i s = .next t) ∧ ∀ s : State, ∃ t, step s = .next t

/-- R478, R480, R482, R484: one turn of the run loop, in a state where no host call is served and no X chain is open. `s` is
the state inside the burst. That a step is one turn and that a burst begins when no call waits are the model's choices
(assumption 7). -/
def Obligations.RunLoop : Prop :=
  ∀ s0 : State, s0.pendingCall = none → s0.xChain = none →
    let s := s0.enterBurst
    -- the burst under way, or one that begins now (R478, R474)
    (s0.sched.inBurst = true → s0.run ≠ .halted → s = s0) ∧
    (s0.sched.inBurst = false ∨ s0.run = .halted →
      s = { s0 with
        run := if s0.run = .halted then .running else s0.run
        sched := { s0.sched with burstStart := s0.cycles, inBurst := true, first := true } }) ∧
    -- a stop request: HALT, before any step (R484)
    (s.sched.stopReq = true →
      step s0 = .next { s with
        run := .halted
        sched := { s.sched with stopReq := false, inBurst := false, first := false, status := some .halt } }) ∧
    -- a breakpoint, tested in Running and not before the first step (R482)
    (s.sched.stopReq = false → s.run = .running → s.sched.first = false → s.atBreakpoint = true →
      step s0 = .next { s with sched := { s.sched with inBurst := false, first := false, status := some .breakpoint } }) ∧
    -- an instruction: no stop request, Running, and no breakpoint that is tested (R482, R211)
    (s.sched.stopReq = false → s.run = .running → s.sched.first = true ∨ s.atBreakpoint = false →
      s.loopTurn = .instruction ∧
      let w := ({ s with sched := { s.sched with first := false }, instPc := s.pc }).readWord s.pc
      ∃ t, exec (decodeWord w.1) (w.2.setPc (s.pc + 2)) = .next t ∧
        step s0 = .next (if t.xChain.isSome then t else t.interruptCheck.frameTest)) ∧
    -- an idle step: no fetch, time, the interrupt check and the budget (R416)
    (s.sched.stopReq = false → s.run = .idleWaiting →
      step s0 = .next ({ s with
        cycles := s.cycles + s.md.idleQuantum
        sched := { s.sched with first := false } }).interruptCheck.frameTest)

/-- R480: after a step the burst ends with FRAME exactly when the budget is reached, and then the VDP raises pin 2; the run
state stays. That the raise is in the step that returns FRAME is the model's choice (assumption 23). -/
def Obligations.FrameBoundary : Prop :=
  ∀ s : State,
    (s.cycles - s.sched.burstStart < s.md.cyclesPerFrame → s.frameTest = s) ∧
    (s.md.cyclesPerFrame ≤ s.cycles - s.sched.burstStart →
      s.frameTest.sched = { s.sched with inBurst := false, first := false, status := some .frame } ∧
      s.frameTest.io.req.getLsbD 2 = true ∧ (∀ p, p ≠ 2 → s.frameTest.io.req.getLsbD p = s.io.req.getLsbD p) ∧
      s.frameTest.run = s.run ∧ s.frameTest.pc = s.pc ∧ s.frameTest.wp = s.wp ∧ s.frameTest.st = s.st ∧
      s.frameTest.cycles = s.cycles ∧ ∀ a, s.frameTest.peek a = s.peek a)

/-- R401, R332: an X whose register holds that same X never ends. The model's form of the hang (assumption 8): each step
executes sixteen words of it, takes no interrupt, no stop and no other host call, and comes to the same state but for time;
the chain is marked endless when it is what it was at a turn noted before, and turns 1, 2, 4, 8, ... are noted. In general, a
chain that comes back to the word, PC and memory it had before, with no free value drawn, is at an X for ever. -/
def Obligations.XChainHangs : Prop :=
  (∀ (s : State) (c : XChain) (n : Reg),
    s.pendingCall = none → s.xChain = some c → decodeWord c.word = .x (.reg n) →
    s.peekWord (evenAddr (regAddr s n.toNat)) = some c.word →
    let now : XSeen := ⟨c.word, s.pc, s.cartBank, s.mapper, s.pool, s.scratch, s.draws⟩
    ∃ m : XMark,
      step s = .next { s with
        xChain := some ⟨c.word, c.owed + 16 * cost s (.x (.reg n)) .plain, m⟩
        cycles := s.cycles + 16 * penalty s (s.tagAt (evenAddr (regAddr s n.toNat))) } ∧
      m.turns = c.mark.turns + 1 ∧ (m.endless = true ↔ c.mark.endless = true ∨ c.mark.seen = some now) ∧
      ((∃ k, m.turns = 2 ^ k) → m.seen = some now) ∧ ((∀ k, m.turns ≠ 2 ^ k) → m.seen = c.mark.seen)) ∧
  (∀ (s : State) (g : GA) (i j : Nat), i < j → (∀ k, k < j → isX (decodeWord (trail s g k).1) = true) →
    let u := (trail s g i).2.1
    let v := (trail s g j).2.1
    (trail s g j).1 = (trail s g i).1 → v.pc = u.pc → v.cartBank = u.cartBank → v.mapper = u.mapper → v.pool = u.pool →
    v.scratch = u.scratch → v.draws = u.draws → ∀ m, isX (decodeWord (trail s g m).1) = true)

/-- R53, R171, R202: an instruction that does not branch leaves PC past its extension words. -/
def Obligations.PcAdvance : Prop :=
  ∀ (i : Instr) (s t : State), branches i = false → s.pc.getLsbD 0 = false → exec i s = .next t →
    t.pc = s.pc + 2 * BitVec.ofNat 16 i.extensionWords

/-- What no instruction but the named ones changes: WP (R52), the run state (R56), the interrupt bookkeeping (R57), the
controller's lines, the classifier table (R64), and whatever is not the CPU's. Time never runs backwards (R55) and the event log only grows (R58). -/
def Obligations.ExecFrame : Prop :=
  ∀ (i : Instr) (s t : State), exec i s = .next t →
    t.md = s.md ∧ t.kbd = s.kbd ∧ t.sched = s.sched ∧ t.instPc = s.instPc ∧ t.intPending = s.intPending ∧
    s.cycles ≤ t.cycles ∧ (∃ l, t.events = s.events ++ l) ∧
    (isX i = false → t.xChain = s.xChain ∧
      (writesWp i = false → t.wp = s.wp) ∧ (i ≠ .idle → t.run = s.run) ∧
      (suppresses i = false → t.noIntCheck = s.noIntCheck) ∧ (reachesCru i = false → SameButRequests s.io t.io) ∧
      (writesCru i = false → t.tags = s.tags))

/-- R106: every byte of memory that an instruction does not store to reads as before. `stores` computes the addresses stored
to. Where none of them selects a bank (a page register, a banked cartridge), the bytes that keep their value are all those
that are backed by other bytes of memory than the stored ones. An instruction that writes CRU bits may move what an address
means (R133, R134), so for it the statement is about the bytes that back addresses, not about the addresses. -/
def Obligations.MemoryFrame : Prop :=
  ∀ (i : Instr) (s t : State), s.Inv → isX i = false → (∀ a ∈ stores s i, ¬ Selector s a) → exec i s = .next t →
    (∀ h : Home, (∀ a ∈ stores s i, s.home a ≠ h) → t.homeByte h = s.homeByte h) ∧
    (writesCru i = false → ∀ b : Word, (∀ a ∈ stores s i, s.home a ≠ s.home b) → t.peek b = s.peek b)

/-! ## Operands and memory -/

/-- R201, R180: the effective address of each mode, for every state; and, where the words read hold data and the register lies
in RAM, what they come to. -/
def Obligations.EffectiveAddress : Prop :=
  ∀ (s : State) (n : Reg) (size : Size),
    let ra := regAddr s n.toNat
    let step := match size with | .byte => (1 : Word) | .word => 2
    s.ea (.reg n) size = (ra, s) ∧
    s.ea (.ind n) size = s.readWord ra ∧
    s.ea .sym size = ((s.readWord s.pc).1, (s.readWord s.pc).2.setPc (s.pc + 2)) ∧
    s.ea (.idx n) size =
      (let ext := s.readWord s.pc
       let x := (ext.2.setPc (s.pc + 2)).readWord ra
       (ext.1 + x.1, x.2)) ∧
    s.ea (.inc n) size =
      (let x := s.readWord ra
       (x.1, x.2.writeWord ra (x.1 + step))) ∧
    ∀ ext x : Word, s.Inv → s.peekWord s.pc = some ext → s.peekWord ra = some x →
      (s.ea (.ind n) size).1 = x ∧ (s.ea .sym size).1 = ext ∧ (s.ea .sym size).2.pc = s.pc + 2 ∧
      (s.ea (.idx n) size).1 = ext + x ∧ (s.ea (.idx n) size).2.pc = s.pc + 2 ∧ (s.ea (.inc n) size).1 = x ∧
      (Ram s ra → (s.ea (.inc n) size).2.peekWord ra = some (x + step))

/-- R101, R104, R107, R115 to R119, R132: what a read answers where memory holds data, with one penalty and no other effect
(R122); and at an unused address a free value, with one penalty, the count of free values, and no other effect. That a cartridge
read past the image is free in the same way is the model's choice (assumption 15). -/
def Obligations.DataReads : Prop :=
  ∀ (s : State) (a : Word),
    let e := evenAddr a
    (∀ b, s.peek a = some b →
      s.readByte a = (b, s.addCycles (if is8Bit s.md (s.tagAt a) then s.md.wait8 else 0))) ∧
    (∀ hi lo, s.peek e = some hi → s.peek (e + 1) = some lo →
      s.readWord a = (hi ++ lo, s.addCycles (if is8Bit s.md (s.tagAt e) then s.md.wait8 else 0))) ∧
    (s.tagAt a = .unused ∨ (s.tagAt a = .cartPlain ∨ s.tagAt a = .cartBanked) ∧ s.peek a = none →
      s.readByte a = (Config.drawByte s.draws,
        { s with cycles := s.cycles + penalty s (s.tagAt a), draws := s.draws + 1 })) ∧
    (s.tagAt a = .unused ∨ (s.tagAt a = .cartPlain ∨ s.tagAt a = .cartBanked) ∧ s.peekWord e = none →
      s.readWord a = (Config.drawWord s.draws,
        { s with cycles := s.cycles + penalty s (s.tagAt a), draws := s.draws + 1 })) ∧
    (s.tagAt a = .consoleRom → s.peek a = some (Memory.read s.md.consoleRom (a.toNat % 8192))) ∧
    (s.tagAt a = .scratch → s.peek a = some (s.scratch.read (a.toNat % 256))) ∧
    (s.tagAt a = .expRam →
      s.peek a = some (s.pool.read (s.mapper.bankOf (BitVec.ofNat 4 (a.toNat / 4096)) * 4096 + a.toNat % 4096))) ∧
    (s.tagAt a = .cartPlain → a.toNat % 8192 < s.md.cartBanks * 8192 →
      s.peek a = some (Memory.read s.md.cartRom (a.toNat % 8192))) ∧
    (s.tagAt a = .cartBanked → s.cartBank < s.md.cartBanks →
      s.peek a = some (Memory.read s.md.cartRom (s.cartBank * 8192 + a.toNat % 8192))) ∧
    (s.tagAt e = .mapperRegs → s.peekWord e = some (s.mapper.reqOf (BitVec.ofNat 4 (a.toNat / 2))))

/-- R106, R101, R116, R117, R122: a store to RAM changes the stored bytes of memory, wherever an address names them or none
does, and nothing else but time: one penalty, two where the machine reads first. -/
def Obligations.RamStores : Prop :=
  ∀ (s : State) (a : Word), s.Inv →
    let e := evenAddr a
    (∀ v : Byte, Ram s a →
      let t := s.writeByte a v
      (∀ h, t.homeByte h = if h = s.home a then some v else s.homeByte h) ∧
      (∀ b, t.peek b = if s.home b = s.home a then some v else s.peek b) ∧
      t.pool.wf ∧ t.scratch.wf ∧
      t = { s with cycles := s.cycles + storePenalty s (s.tagAt a), pool := t.pool, scratch := t.scratch }) ∧
    (∀ v : Word, Ram s e →
      let t := s.writeWord a v
      t.peekWord e = some v ∧
      (∀ h, t.homeByte h = if h = s.home e then some (v.extractLsb' 8 8)
        else if h = s.home (e + 1) then some (v.extractLsb' 0 8) else s.homeByte h) ∧
      (∀ b, t.peek b = if s.home b = s.home e then some (v.extractLsb' 8 8)
        else if s.home b = s.home (e + 1) then some (v.extractLsb' 0 8) else s.peek b) ∧
      t.pool.wf ∧ t.scratch.wf ∧
      t = { s with cycles := s.cycles + storePenalty s (s.tagAt e), pool := t.pool, scratch := t.scratch }) ∧
    (∀ b, s.tagAt a = .scratch → s.tagAt b = .scratch → (s.home b = s.home a ↔ b.toNat % 256 = a.toNat % 256))

/-- R115, R118, R119, R122: a store to a ROM, to a plain cartridge or to an unused address changes nothing but time (and the
count of free values, where the store reads first and no data is there); a store of any width and value to a banked cartridge
selects its bank. -/
def Obligations.RomStores : Prop :=
  ∀ (s : State) (a : Word) (v : Word) (b : Byte),
    let e := evenAddr a
    let time := s.cycles + storePenalty s (s.tagAt a)
    let drawsByte := if s.md.readBeforeWrite = true ∧ s.peek a = none then s.draws + 1 else s.draws
    let drawsWord := if s.md.readBeforeWrite = true ∧ s.peekWord e = none then s.draws + 1 else s.draws
    (s.tagAt a = .consoleRom ∨ s.tagAt a = .cartPlain ∨ s.tagAt a = .unused →
      s.writeByte a b = { s with cycles := time, draws := drawsByte } ∧
      s.writeWord a v = { s with cycles := time, draws := drawsWord }) ∧
    (s.tagAt a = .cartBanked →
      let bank := (BitVec.ofNat 16 (a.toNat / 2) &&& s.md.cartMask).toNat
      s.writeByte a b = { s with cartBank := bank, cycles := time, draws := drawsByte } ∧
      s.writeWord a v = { s with cartBank := bank, cycles := time, draws := drawsWord }) ∧
    s.tagAt e = s.tagAt a

/-- R131, R137, R122: a store to the register window. -/
def Obligations.PageRegisterStores : Prop :=
  ∀ (s : State) (a : Word) (t : State) (v : Word),
    let r : Fin 16 := ⟨a.toNat / 2 % 16, Nat.mod_lt _ (by decide)⟩
    let old := s.mapper.reqw[r]
    s.tagAt a = .mapperRegs →
    (t = s.writeWord a v ∨
      (t = s.writeByte a (v.extractLsb' 8 8) ∧ a.getLsbD 0 = false ∧ v.extractLsb' 0 8 = old.extractLsb' 0 8) ∨
      (t = s.writeByte a (v.extractLsb' 0 8) ∧ a.getLsbD 0 = true ∧ v.extractLsb' 8 8 = old.extractLsb' 8 8)) →
    t = { s with mapper := t.mapper, cycles := s.cycles + storePenalty s .mapperRegs } ∧
    (s.mapper.visible = false → t.mapper = s.mapper) ∧
    (s.mapper.visible = true →
      (∀ q : Fin 16, t.mapper.reqw[q] = if q = r then v else s.mapper.reqw[q]) ∧
      t.mapper.visible = true ∧ t.mapper.active = s.mapper.active ∧
      (s.mapper.active = true ∧ r ∈ s.md.swappable →
        (∀ q : Fin 16, t.mapper.bank[q] = if q = r then samsIndex s.md v % s.md.banks else s.mapper.bank[q]) ∧
        t.mapper.hwm = max s.mapper.hwm (samsIndex s.md v % s.md.banks)) ∧
      (¬ (s.mapper.active = true ∧ r ∈ s.md.swappable) →
        t.mapper.bank = s.mapper.bank ∧ t.mapper.hwm = s.mapper.hwm))

/-- R134: writing the mapping-active bit re-evaluates every swappable region at once. -/
def Obligations.MappingActiveBit : Prop :=
  ∀ (s : State) (b : Bool), pinOf s.md (s.md.samsCruBase + 1) = none →
    let t := s.cruWrite (s.md.samsCruBase + 1) b
    (∃ m, t = { s with mapper := m }) ∧ t.mapper.active = b ∧ t.mapper.visible = s.mapper.visible ∧
    t.mapper.reqw = s.mapper.reqw ∧
    (∀ r : Fin 16, t.mapper.bank[r] =
      if r ∈ s.md.swappable then (if b then samsIndex s.md s.mapper.reqw[r] % s.md.banks else r.val % s.md.banks)
      else s.mapper.bank[r]) ∧
    t.mapper.hwm =
      if b then (s.md.swappable.map (fun r => samsIndex s.md s.mapper.reqw[r] % s.md.banks)).foldl max s.mapper.hwm
      else s.mapper.hwm

/-- R138: mapping switched off and on again gives every region the bank it had, and memory reads as before. -/
def Obligations.MappingRoundTrip : Prop :=
  ∀ s : State, pinOf s.md (s.md.samsCruBase + 1) = none → s.mapper.active = true →
    (∀ r ∈ s.md.swappable, s.mapper.bank[r] = samsIndex s.md s.mapper.reqw[r] % s.md.banks) →
    let t := (s.cruWrite (s.md.samsCruBase + 1) false).cruWrite (s.md.samsCruBase + 1) true
    t.mapper.bank = s.mapper.bank ∧ t.mapper.active = true ∧ ∀ a, t.peek a = s.peek a

/-- R133, R113, R130: writing the visibility bit retags the register window and moves no bank. -/
def Obligations.VisibilityBit : Prop :=
  ∀ (s : State) (b : Bool), s.Inv → pinOf s.md s.md.samsCruBase = none →
    let t := s.cruWrite s.md.samsCruBase b
    (∃ tags, t = { s with mapper := { s.mapper with visible := b }, tags := tags }) ∧
    ∀ a : Word, t.tagAt a =
      if 0x4000 ≤ a.toNat ∧ a.toNat ≤ 0x401F then (if b then .mapperRegs else .dsr) else s.tagAt a

/-- R121, R122: an access to a collaborator region, at an even address where it is a word, is recorded and charged, and then
the collaborator does what stands next in its input list, nothing when the list is empty (assumption 6). -/
def Obligations.CollaboratorAccess : Prop :=
  ∀ (s : State) (a : Word), isCollaborator (s.tagAt a) = true →
    let t := s.tagAt a
    let logged (e : Event) : State := { s with cycles := s.cycles + penalty s t, events := s.events ++ [e] }
    (s.readByte a).2 = (reacts (logged (.devRead t a 1)) s.devInputs).nextDraw ∧
    (a.getLsbD 0 = false → (s.readWord a).2 = (reacts (logged (.devRead t a 2)) s.devInputs).nextDraw) ∧
    (s.md.readBeforeWrite = false →
      (∀ v : Byte, s.writeByte a v = reacts (logged (.devWrite t a 1 (BitVec.ofNat 16 v.toNat))) s.devInputs) ∧
      (a.getLsbD 0 = false → ∀ v : Word, s.writeWord a v = reacts (logged (.devWrite t a 2 v)) s.devInputs))

/-- R140, R135, R113: which device a CRU address reaches. A write that nothing decodes is recorded; where a collaborator has a
reaction to come, granules of the DSR window that carry DSR or DISK may change between the two (assumption 6). The stock
machine is the model's choice (assumption 2). -/
def Obligations.CruDispatch : Prop :=
  (∀ a : CruAddr, pinOf Descriptor.stock a = if a.toNat ≤ 0x3FF then some (a.toNat % 32) else none) ∧
  ∀ (s : State) (a : CruAddr) (b : Bool),
    (∀ p, pinOf s.md a = some p → s.cruRead a = s.pinRead p ∧ s.cruWrite a b = s.pinWrite p b) ∧
    (pinOf s.md a = none →
      (a = s.md.samsCruBase → s.cruRead a = (s.mapper.visible, s)) ∧
      (a = s.md.samsCruBase + 1 → s.cruRead a = (s.mapper.active, s)) ∧
      (a ≠ s.md.samsCruBase → a ≠ s.md.samsCruBase + 1 →
        (s.cruRead a).2 = { s with draws := s.draws + 1 } ∧
        (s.cruInputs = [] → s.cruWrite a b = { s with events := s.events ++ [.cruOut a b] }) ∧
        (∀ rest, s.cruInputs = .quiet :: rest →
          s.cruWrite a b = { s with events := s.events ++ [.cruOut a b], cruInputs := rest }) ∧
        (∀ disk lo hi rest, s.Inv → s.cruInputs = .retag disk lo hi :: rest →
          let t := s.cruWrite a b
          t = { s with events := s.events ++ [.cruOut a b], cruInputs := rest, tags := t.tags } ∧
          ∀ g, t.granuleTag g =
            if 0x400 ≤ g ∧ g ≤ 0x5FF ∧ lo ≤ g ∧ g ≤ hi ∧ (s.granuleTag g = .dsr ∨ s.granuleTag g = .disk)
            then (if disk then .disk else .dsr) else s.granuleTag g)))

/-! ## The 9901 -/

/-- R425, R426: requests and enables are counted by reference; raising twice counts once; nothing else of the controller
changes. -/
def Obligations.ReferenceCount : Prop :=
  ∀ (c : Controller) (p : Nat) (b : Bool), c.intCount = activePins c.req c.en →
    ((c.raise p).intCount = activePins (c.raise p).req (c.raise p).en) ∧
    ((c.clear p).intCount = activePins (c.clear p).req (c.clear p).en) ∧
    ((c.setEn p b).intCount = activePins (c.setEn p b).req (c.setEn p b).en) ∧
    c.raise p = { c with req := (c.raise p).req, intCount := (c.raise p).intCount } ∧
    c.clear p = { c with req := (c.clear p).req, intCount := (c.clear p).intCount } ∧
    c.setEn p b = { c with en := (c.setEn p b).en, intCount := (c.setEn p b).intCount } ∧
    (∀ q, q < 32 → (c.raise p).req.getLsbD q = (decide (q = p ∧ 1 ≤ p ∧ p ≤ 15) || c.req.getLsbD q)) ∧
    (∀ q, q < 32 → (c.clear p).req.getLsbD q = (!decide (q = p ∧ 1 ≤ p ∧ p ≤ 15) && c.req.getLsbD q)) ∧
    (∀ q, q < 32 → (c.setEn p b).en.getLsbD q = if q = p ∧ 1 ≤ p ∧ p ≤ 15 then b else c.en.getLsbD q) ∧
    (c.raise p).raise p = c.raise p ∧ ((c.raise p).raise p).clear p = c.clear p ∧
    (c.intReq = true ↔ ∃ q, 1 ≤ q ∧ q ≤ 15 ∧ c.req.getLsbD q = true ∧ c.en.getLsbD q = true)

/-- R429, R431, R433, R434, R436: a write to each pin in each mode, after the timer's sample. -/
def Obligations.PinWrites : Prop :=
  ∀ (s : State) (p : Nat) (b : Bool), s.Inv → p < 32 →
    let c := s.io.timerSample s.cycles
    let t := s.pinWrite p b
    let io (c d : Controller) : Prop :=
      (p = 0 → d = { c with timerMode := b }) ∧
      (p = 3 → d = (c.setEn 3 b).clear 3) ∧
      (1 ≤ p ∧ p ≤ 15 ∧ p ≠ 3 → d = c.setEn p b) ∧
      (18 ≤ p ∧ p ≤ 20 → ∃ col, d = { c with col := col } ∧
        ∀ k, k < 3 → col.getLsbD k = if k = p - 18 then b else c.col.getLsbD k) ∧
      (p = 21 → d = { c with caps := b }) ∧
      (p = 16 ∨ p = 17 ∨ 22 ≤ p → d = c)
    t = { s with io := t.io } ∧
    (c.timerMode = false → io c t.io) ∧
    (c.timerMode = true →
      (p = 0 → t.io = { c with timerMode := b }) ∧
      (1 ≤ p ∧ p ≤ 14 → ∃ k : BitVec 14,
        (∀ j, j < 14 → k.getLsbD j = if j = p - 1 then b else c.clock.getLsbD j) ∧
        t.io = { c with clock := k, dec := k, tBase := s.cycles, tDelta := 0 }) ∧
      (p = 15 → b = true → t.io = c) ∧
      (p = 15 → b = false → t.io = { c with en := 0, intCount := 0 }) ∧
      (16 ≤ p → io { c with timerMode := false } t.io))

/-- R429, R432, R435, R450: what reading each pin gives in each mode, after the timer's sample. A row of the matrix is the
oracle's negation, asked anew at each read (assumption 5). -/
def Obligations.PinReads : Prop :=
  ∀ (s : State) (p : Nat), p < 32 →
    let c := s.io.timerSample s.cycles
    let u := { s with io := c }
    let io (u : State) (r : Bool × State) : Prop :=
      (p = 0 → r = (false, u)) ∧
      (p = 1 ∨ p = 2 → r = (!c.req.getLsbD p, u)) ∧
      (3 ≤ p ∧ p ≤ 5 ∧ 6 ≤ c.col.toNat → r = (true, u)) ∧
      (3 ≤ p ∧ p ≤ 10 ∧ ¬ (p ≤ 5 ∧ 6 ≤ c.col.toNat) →
        r = (!Config.keyMatrix s.draws s.kbd.keys s.kbd.joy1 s.kbd.joy2 c.col.toNat (p - 3) c.caps,
          { u with draws := s.draws + 1 })) ∧
      (11 ≤ p → r = (true, u))
    (c.timerMode = false → io u (s.pinRead p)) ∧
    (c.timerMode = true →
      (p = 0 → s.pinRead p = (true, u)) ∧
      (1 ≤ p ∧ p ≤ 14 → s.pinRead p = (c.dec.getLsbD (p - 1), u)) ∧
      (p = 15 → s.pinRead p = (c.req.getLsbD 3, u)) ∧
      (16 ≤ p → io { s with io := { c with timerMode := false } } (s.pinRead p)))

/-- R441: the timer's properties. -/
def Obligations.TimerProperties : Prop :=
  (∀ (c : Controller) (bit : Nat) (b : Bool) (t0 : Nat),
    let d := c.clockWrite bit b t0
    d.dec = d.clock ∧ d.tBase = t0 ∧ d.tDelta = 0) ∧
  (∀ (c : Controller) (t0 n j : Nat),
    0 < c.clock.toNat → c.dec = c.clock → c.tBase = t0 → c.tDelta = 0 → j < 64 →
    let K := c.clock.toNat
    let d := c.timerSample (t0 + 64 * n + j)
    (n < K → d.dec.toNat = K - n ∧ d.req = c.req) ∧
    (K ≤ n → d.dec.toNat = K - (n - K) % K ∧ ∀ q, q < 32 → d.req.getLsbD q = (decide (q = 3) || c.req.getLsbD q))) ∧
  (∀ (c : Controller) (t1 t2 : Nat), c.tBase ≤ t1 → t1 ≤ t2 → c.tDelta ≤ (t1 - c.tBase) / 64 →
    (c.timerSample t1).timerSample t2 = c.timerSample t2)

/-! ## Exceptions -/

/-- R410: what a context switch saves, where the new workspace's R13 to R15 lie in RAM. -/
def Obligations.ContextSwitchSaves : Prop :=
  ∀ (s : State) (nwp npc : Word), s.Inv →
    let wp := evenAddr nwp
    Ram s (wp + 26) → Ram s (wp + 28) → Ram s (wp + 30) →
    let t := s.contextSwitch nwp npc
    t.wp = wp ∧ t.pc = evenAddr npc ∧ t.st = s.st ∧
    t.peekWord (wp + 26) = some s.wp ∧ t.peekWord (wp + 28) = some s.pc ∧ t.peekWord (wp + 30) = some s.st ∧
    (∀ b, (∀ a ∈ contextStores nwp, s.home a ≠ s.home b) → t.peek b = s.peek b) ∧
    t.mapper = s.mapper ∧ t.io = s.io ∧ t.events = s.events ∧ t.run = s.run

/-- R330, R263, R374, R419: BLWP or XOP followed by RTWP, and interrupt entry followed by the return, restore PC, WP and ST.
For XOP, which stores in the new R11 after the context is saved, that word is no page register, which could change the bank
that holds the context. -/
def Obligations.SwitchThenReturn : Prop :=
  (∀ (s t u : State) (g : GA), s.Inv → exec (.blwp g) s = .next t →
    Ram t (t.wp + 26) → Ram t (t.wp + 28) → Ram t (t.wp + 30) → exec .rtwp t = .next u →
    u.pc = (s.ea g .word).2.pc ∧ u.wp = s.wp ∧ u.st = s.st) ∧
  (∀ (s t u : State) (gs : GA) (n : BitVec 4), s.Inv → exec (.xop gs n) s = .next t →
    Ram t (t.wp + 26) → Ram t (t.wp + 28) → Ram t (t.wp + 30) → t.tagAt (t.wp + 22) ≠ .mapperRegs →
    exec .rtwp t = .next u → u.pc = (s.ea gs .word).2.pc ∧ u.wp = s.wp ∧ u.st = s.st) ∧
  (∀ (s : State) (level : Nat), s.Inv →
    let t := s.interruptEntry level
    Ram t (t.wp + 26) → Ram t (t.wp + 28) → Ram t (t.wp + 30) →
    t.returnContext.pc = s.pc ∧ t.returnContext.wp = s.wp ∧ t.returnContext.st = s.st)

/-- R412, R413, R414: the interrupt check, suppressed, not taken and taken. -/
def Obligations.InterruptCheck : Prop :=
  ∀ s : State,
    (s.noIntCheck = true → s.interruptCheck = { s with noIntCheck := false }) ∧
    (s.noIntCheck = false →
      let c := s.io.timerSample s.cycles
      let u := { s with io := c, intPending := decide (c.intCount ≠ 0) }
      let level := s.md.cpuIntLevel
      (c.intCount = 0 ∨ s.st.toNat % 16 < level → s.interruptCheck = u) ∧
      (c.intCount ≠ 0 → level ≤ s.st.toNat % 16 →
        let nwp := u.readWord (BitVec.ofNat 16 (4 * level))
        let npc := nwp.2.readWord (BitVec.ofNat 16 (4 * level) + 2)
        let t := (saveContext (npc.2.setWp nwp.1) (evenAddr nwp.1) s.wp s.pc s.st).setPc npc.1
        ∃ st', StIs s.st st' (maskBits (level - 1)) ∧
          s.interruptCheck = { t with
            st := st'
            run := if s.run = .idleWaiting then .running else s.run
            cycles := t.cycles + baseCycles s.md .interrupt
            noIntCheck := true }))

/-! ## Invariants -/

/-- Every step keeps the machine's invariants (Safety.lean). -/
def Obligations.StepKeepsInvariants : Prop :=
  ∀ s t : State, s.Inv → step s = .next t → t.Inv

/-- The machine has its invariants after reset. -/
def Obligations.ResetHasInvariants : Prop := State.reset.Inv

/-! ## Reset, save state, host -/

/-- R470, R68, R471: a reset from any state, where the reset map puts the vector in the console ROM. It ends an X chain and a
burst (R473). That the breakpoint is kept is the model's choice (assumption 13). -/
def Obligations.ResetSequence : Prop :=
  ∀ (s : State) (md : Descriptor), regionInit md 0 = .consoleRom →
    let t := s.hostReset md
    let rom (k : Nat) : Byte := Memory.read md.consoleRom k
    t.md = md ∧ t.wp = evenAddr (rom 0 ++ rom 1) ∧ t.pc = evenAddr (rom 2 ++ rom 3) ∧ t.st = 0 ∧ t.cycles = 0 ∧
    t.run = .halted ∧ t.intPending = false ∧ t.noIntCheck = false ∧ t.events = [] ∧ t.cartBank = 0 ∧
    t.io.timerMode = false ∧ t.io.req = 0 ∧ t.io.en = 0 ∧ t.io.intCount = 0 ∧ t.io.clock = 0 ∧ t.io.dec = 0 ∧
    t.io.tBase = 0 ∧ t.io.tDelta = 0 ∧ t.io.col = 0 ∧ t.io.caps = false ∧ t.kbd.keys = [] ∧
    t.mapper.visible = false ∧ t.mapper.active = false ∧ t.mapper.hwm = 0 ∧ t.mapper.reqw = md.samsReqInit ∧
    (∀ r ∈ md.swappable, t.mapper.bank[r] = r.val % md.banks) ∧ (∀ g, t.granuleTag g = regionInit md g) ∧
    t.scratch = s.scratch ∧ (md.banks = s.md.banks → t.pool = s.pool) ∧ t.sched.stopReq = false ∧ t.sched.bp = s.sched.bp ∧
    t.xChain = none ∧ t.sched.inBurst = false

/-- R496: decoding the run-length code gives the words back; the code is no longer than ceil(3M/2); an all-zero pool is one
pair; a zero count and a trailing zero are malformed, after whatever code they stand. -/
def Obligations.RunLengthCode : Prop :=
  (∀ l : List Nat, rleDecode (rleEncode l) = some l ∧ (rleEncode l).length ≤ (3 * l.length + 1) / 2) ∧
  (∀ M, 0 < M → rleEncode (List.replicate M 0) = [0, M]) ∧
  (∀ l w t : List Nat, rleDecode l = some w → rleDecode (l ++ [0]) = none ∧ rleDecode (l ++ 0 :: 0 :: t) = none)

/-- R497, R495: a saved state loads back into any machine with the same descriptor, the classifier computed again, and a load
that fails changes nothing. That a load keeps the event log is read from R495's "not saved" (assumption 18), and that a file
layer that fails answers before the version is compared is the model's choice (assumption 17), so neither is claimed of R497. -/
def Obligations.SaveAndLoad : Prop :=
  (∀ (s u : State) (image : SaveImage), s.Inv → s.saveState true = .saved image → u.md = s.md →
    let r := u.loadState image true
    r.1 = .done ∧ r.2.pc = s.pc ∧ r.2.wp = s.wp ∧ r.2.st = s.st ∧ r.2.cycles = s.cycles ∧ r.2.run = s.run ∧
    r.2.intPending = s.intPending ∧ r.2.noIntCheck = s.noIntCheck ∧ r.2.cartBank = s.cartBank ∧ r.2.io = s.io ∧
    r.2.mapper = s.mapper ∧ r.2.scratch = s.scratch ∧ r.2.pool = s.pool ∧ r.2.events = u.events ∧
    (∀ g, r.2.granuleTag g =
      if s.mapper.visible = true ∧ (g = 0x400 ∨ g = 0x401) then .mapperRegs else regionInit u.md g)) ∧
  (∀ s : State, s.md.rleCapacity = none → ∃ image, s.saveState true = .saved image) ∧
  (∀ (u : State) (image : SaveImage) (ioOk : Bool),
    let r := u.loadState image ioOk
    (r.1 = .done ∨ r = (.failed .saveStateVersionMismatch, u) ∨ r = (.failed .saveStateIOFailure, u)) ∧
    (ioOk = true → image.version ≠ u.md.saveVersion → r = (.failed .saveStateVersionMismatch, u)) ∧
    (image.version = u.md.saveVersion → image.banks ≠ u.md.banks ∨ rleDecode image.pool = none →
      r = (.failed .saveStateIOFailure, u)) ∧
    (∀ words, image.version = u.md.saveVersion → rleDecode image.pool = some words → words.length ≠ u.md.banks * 1024 →
      r = (.failed .saveStateIOFailure, u)))

/-- R490: the host's memory calls have the access's effect and add no cycles; its interrupt calls are Raise and Clear; a CRU
call with a count outside 1 to 16 is refused and changes nothing; run_one_burst begins a burst (R478), save_state and load_state
are the operations of SaveAndLoad. R491: outside an X chain, which ResetEndsHang is about, a step between bursts serves the next
call of the queue, and inside a burst none is served; that the calls stand in a queue is the model's choice (assumption 7), as is
that a memory call of another width is refused (assumption 17). (That an interrupt call with a pin outside 1 to 15 answers
`done` is the model's choice, assumption 29.) Reset is the sequence of R470 where the parameters meet
their constraints (R9, R117), and that it is refused otherwise is the model's choice (assumption 17). -/
def Obligations.HostCalls : Prop :=
  ∀ s : State,
    let reply (t : State) (r : HostReply) : State := { t with sched := { t.sched with reply := some r } }
    (∀ a, s.hostCall (.readMemory a 1) =
      reply { (s.readByte a).2 with cycles := s.cycles } (.value (BitVec.ofNat 16 (s.readByte a).1.toNat))) ∧
    (∀ a, s.hostCall (.readMemory a 2) = reply { (s.readWord a).2 with cycles := s.cycles } (.value (s.readWord a).1)) ∧
    (∀ a v, s.hostCall (.writeMemory a 1 v) =
      reply { s.writeByte a (BitVec.ofNat 8 v.toNat) with cycles := s.cycles } .done) ∧
    (∀ a v, s.hostCall (.writeMemory a 2 v) = reply { s.writeWord a v with cycles := s.cycles } .done) ∧
    (∀ p, s.hostCall (.raiseInterrupt p) = reply { s with io := s.io.raise p } .done) ∧
    (∀ p, s.hostCall (.clearInterrupt p) = reply { s with io := s.io.clear p } .done) ∧
    (∀ a n, 1 ≤ n → n ≤ 16 →
      let r := receiveBits s a.toNat n
      s.hostCall (.readCru a n) = reply r.2 (.value (BitVec.ofNat 16 r.1))) ∧
    (∀ a n v, 1 ≤ n → n ≤ 16 → s.hostCall (.writeCru a n v) = reply (sendBits s a.toNat n v.toNat) .done) ∧
    (∀ a n, n = 0 ∨ 16 < n → s.hostCall (.readCru a n) = reply s .refused) ∧
    (∀ a n v, n = 0 ∨ 16 < n → s.hostCall (.writeCru a n v) = reply s .refused) ∧
    s.hostCall .stop = reply { s with sched := { s.sched with stopReq := true } } .done ∧
    (∀ bp, s.hostCall (.setBreakpoint bp) = reply { s with sched := { s.sched with bp := bp } } .done) ∧
    (∀ a n v, n ≠ 1 → n ≠ 2 →
      s.hostCall (.readMemory a n) = reply s .refused ∧ s.hostCall (.writeMemory a n v) = reply s .refused) ∧
    s.hostCall .runOneBurst =
      { s with
        run := if s.run = .halted then .running else s.run
        sched := { s.sched with burstStart := s.cycles, inBurst := true, first := true } } ∧
    (∀ ioOk, s.hostCall (.saveState ioOk) = reply s (s.saveState ioOk)) ∧
    (∀ image ioOk, s.hostCall (.loadState image ioOk) =
      reply (s.loadState image ioOk).2 (s.loadState image ioOk).1) ∧
    (∀ keys, s.hostCall (.setKeys keys) = reply { s with kbd := { s.kbd with keys := keys } } .done) ∧
    (∀ j1 j2, s.hostCall (.setJoysticks j1 j2) = reply { s with kbd := { s.kbd with joy1 := j1, joy2 := j2 } } .done) ∧
    (s.sched.queue = [] → s.pendingCall = none) ∧
    (s.xChain = none → s.sched.inBurst = true → s.run ≠ .halted → s.pendingCall = none) ∧
    (∀ call rest, s.xChain = none → s.sched.queue = call :: rest → s.sched.inBurst = false ∨ s.run = .halted →
      step s = .next (({ s with sched := { s.sched with queue := rest } }).hostCall call)) ∧
    (∀ md : Descriptor,
      let ok : Prop :=
        16 ≤ md.banks ∧ (∀ (q : Fin 16) (g : Nat), g / 256 = q.val → regionInit md g = .expRam → q ∈ md.swappable) ∧
        md.samsCruBase ≤ 0xFFE ∧ 1 ≤ md.cpuIntLevel ∧ md.cpuIntLevel ≤ 15 ∧ 0 < md.idleQuantum ∧
        0 < md.cyclesPerFrame
      (ok → s.hostCall (.reset md) = reply (s.hostReset md) .done) ∧ (¬ ok → s.hostCall (.reset md) = reply s .refused))

/-! ## The instructions -/

/-- R231, R235, R237, R239: A, S, SOC and SZC. -/
def Obligations.WordArithmeticLogic : Prop :=
  ∀ gs gd : GA,
    DualWord (.a gs gd) gs gd (fun d v => d + v) (fun d v => addBits d v) ∧
    DualWord (.s gs gd) gs gd (fun d v => d - v) (fun d v => subBits d v) ∧
    DualWord (.soc gs gd) gs gd (fun d v => d ||| v) (fun d v => laeBits (d ||| v)) ∧
    DualWord (.szc gs gd) gs gd (fun d v => d &&& ~~~v) (fun d v => laeBits (d &&& ~~~v))

/-- R232, R236, R238, R240: AB, SB, SOCB and SZCB. -/
def Obligations.ByteArithmeticLogic : Prop :=
  ∀ gs gd : GA,
    DualByte (.ab gs gd) gs gd (fun d v => d + v) (fun d v => addBits d v ++ parityBits (d + v)) ∧
    DualByte (.sb gs gd) gs gd (fun d v => d - v) (fun d v => subBits d v ++ parityBits (d - v)) ∧
    DualByte (.socb gs gd) gs gd (fun d v => d ||| v) (fun d v => laeBits (d ||| v) ++ parityBits (d ||| v)) ∧
    DualByte (.szcb gs gd) gs gd (fun d v => d &&& ~~~v) (fun d v => laeBits (d &&& ~~~v) ++ parityBits (d &&& ~~~v))

/-- R233, R234: C and CB. -/
def Obligations.Compares : Prop :=
  ∀ (gs gd : GA) (s : State),
    (let src := wordOperand s gs
     let dst := wordOperand src.2.2 gd
     ∃ st', StIs s.st st' (cmpBits src.2.1 dst.2.1) ∧
       exec (.c gs gd) s = .next ((dst.2.2.setSt st').addCycles (cost s (.c gs gd) .plain))) ∧
    (let src := byteOperand s gs
     let dst := byteOperand src.2.2 gd
     ∃ st', StIs s.st st' (cmpBits src.2.1 dst.2.1 ++ parityBits src.2.1) ∧
       exec (.cb gs gd) s = .next ((dst.2.2.setSt st').addCycles (cost s (.cb gs gd) .plain)))

/-- R241, R242: MOV and MOVB, which do not read their destination. -/
def Obligations.Moves : Prop :=
  ∀ (gs gd : GA) (s : State),
    (let src := wordOperand s gs
     let da := src.2.2.ea gd .word
     ∃ st', StIs s.st st' (laeBits src.2.1) ∧
       exec (.mov gs gd) s =
         .next (((da.2.setSt st').writeWord da.1 src.2.1).addCycles (cost s (.mov gs gd) .plain))) ∧
    (let src := byteOperand s gs
     let da := src.2.2.ea gd .byte
     ∃ st', StIs s.st st' (laeBits src.2.1 ++ parityBits src.2.1) ∧
       exec (.movb gs gd) s =
         .next (((da.2.setSt st').writeByte da.1 src.2.1).addCycles (cost s (.movb gs gd) .plain)))

/-- R260, R261, R262: COC, CZC and XOR. -/
def Obligations.RegisterLogic : Prop :=
  ∀ (gs : GA) (d : Reg) (s : State),
    let src := wordOperand s gs
    let x := src.2.2.readWord (regAddr s d.toNat)
    (∃ st', StIs s.st st' [(13, decide (src.2.1 &&& x.1 = src.2.1))] ∧
      exec (.coc gs d) s = .next ((x.2.setSt st').addCycles (cost s (.coc gs d) .plain))) ∧
    (∃ st', StIs s.st st' [(13, decide (src.2.1 &&& x.1 = 0))] ∧
      exec (.czc gs d) s = .next ((x.2.setSt st').addCycles (cost s (.czc gs d) .plain))) ∧
    (∃ st', StIs s.st st' (laeBits (x.1 ^^^ src.2.1)) ∧
      exec (.xor gs d) s =
        .next (((x.2.setSt st').writeWord (regAddr s d.toNat) (x.1 ^^^ src.2.1)).addCycles (cost s (.xor gs d) .plain)))

/-- R263, R185: XOP. -/
def Obligations.ExtendedOperation : Prop :=
  ∀ (gs : GA) (n : BitVec 4) (s : State),
    let a := s.ea gs .word
    let v : Word := BitVec.ofNat 16 (0x40 + 4 * n.toNat)
    let nwp := a.2.readWord v
    let npc := nwp.2.readWord (v + 2)
    let t := saveContext (npc.2.setWp nwp.1) (evenAddr nwp.1) s.wp a.2.pc s.st
    ∃ st', StIs s.st st' [(9, true)] ∧
      exec (.xop gs n) s = .next
        (((((t.setPc npc.1).writeWord (evenAddr nwp.1 + 22) a.1).setSt st').setNoIntCheck true).addCycles
          (cost s (.xop gs n) .plain))

/-- R264: MPY. -/
def Obligations.Multiply : Prop :=
  ∀ (gs : GA) (d : Reg) (s : State),
    let src := wordOperand s gs
    let x := src.2.2.readWord (regAddr s d.toNat)
    ∃ hi lo : Word, hi.toNat * 65536 + lo.toNat = x.1.toNat * src.2.1.toNat ∧
      exec (.mpy gs d) s = .next
        (((x.2.writeWord (regAddr s d.toNat) hi).writeWord (regAddr s (d.toNat + 1)) lo).addCycles (cost s (.mpy gs d) .plain))

/-- R265: DIV. -/
def Obligations.Divide : Prop :=
  ∀ (gs : GA) (d : Reg) (s : State),
    let src := wordOperand s gs
    let v := src.2.1.toNat
    let hi := src.2.2.readWord (regAddr s d.toNat)
    (v ≤ hi.1.toNat → ∃ st', StIs s.st st' [(11, true)] ∧
      exec (.div gs d) s = .next ((hi.2.setSt st').addCycles (cost s (.div gs d) .overflow))) ∧
    (hi.1.toNat < v →
      let lo := hi.2.readWord (regAddr s (d.toNat + 1))
      ∃ (q r st' : Word), q.toNat * v + r.toNat = hi.1.toNat * 65536 + lo.1.toNat ∧ r.toNat < v ∧
        StIs s.st st' [(11, false)] ∧
        exec (.div gs d) s = .next
          ((((lo.2.writeWord (regAddr s d.toNat) q).writeWord (regAddr s (d.toNat + 1)) r).setSt st').addCycles
            (cost s (.div gs d) (.divided hi.1 lo.1 src.2.1))))

/-- R280 to R293: the thirteen jumps. -/
def Obligations.Jumps : Prop :=
  ∀ disp : Byte,
    JumpIs (.jmp disp) disp (fun _ _ _ _ _ _ => true) ∧
    JumpIs (.jlt disp) disp (fun _ a e _ _ _ => !a && !e) ∧
    JumpIs (.jle disp) disp (fun l _ e _ _ _ => !l || e) ∧
    JumpIs (.jeq disp) disp (fun _ _ e _ _ _ => e) ∧
    JumpIs (.jhe disp) disp (fun l _ e _ _ _ => l || e) ∧
    JumpIs (.jgt disp) disp (fun _ a _ _ _ _ => a) ∧
    JumpIs (.jne disp) disp (fun _ _ e _ _ _ => !e) ∧
    JumpIs (.jnc disp) disp (fun _ _ _ c _ _ => !c) ∧
    JumpIs (.joc disp) disp (fun _ _ _ c _ _ => c) ∧
    JumpIs (.jno disp) disp (fun _ _ _ _ o _ => !o) ∧
    JumpIs (.jl disp) disp (fun l _ e _ _ _ => !l && !e) ∧
    JumpIs (.jh disp) disp (fun l _ e _ _ _ => l && !e) ∧
    JumpIs (.jop disp) disp (fun _ _ _ _ _ p => p)

/-- R296 to R299: SBO, SBZ and TB. -/
def Obligations.CruBits : Prop :=
  ∀ (disp : Byte) (s : State),
    let base := cruBaseOf s
    let a : CruAddr := BitVec.ofInt 12 ((base.1 : Int) + disp.toInt)
    let r := base.2.cruRead a
    exec (.sbo disp) s = .next ((base.2.cruWrite a true).addCycles (cost s (.sbo disp) .plain)) ∧
    exec (.sbz disp) s = .next ((base.2.cruWrite a false).addCycles (cost s (.sbz disp) .plain)) ∧
    ∃ st', StIs s.st st' [(13, r.1)] ∧
      exec (.tb disp) s = .next ((r.2.setSt st').addCycles (cost s (.tb disp) .plain))

/-- R310, R311: LDCR. That R12 is read after the operand, and once, is the model's reading (assumption 10). -/
def Obligations.LoadCru : Prop :=
  ∀ (gs : GA) (c : BitVec 4) (s : State),
    let n := transferCount c
    (n ≤ 8 →
      let v := byteOperand s gs
      let base := cruBaseOf v.2.2
      ∃ st', StIs s.st st' (laeBits v.2.1 ++ parityBits v.2.1) ∧
        exec (.ldcr gs c) s =
          .next (((sendBits base.2 base.1 n v.2.1.toNat).setSt st').addCycles (cost s (.ldcr gs c) .plain))) ∧
    (8 < n →
      let v := wordOperand s gs
      let base := cruBaseOf v.2.2
      ∃ st', StIs s.st st' (laeBits v.2.1) ∧
        exec (.ldcr gs c) s =
          .next (((sendBits base.2 base.1 n v.2.1.toNat).setSt st').addCycles (cost s (.ldcr gs c) .plain)))

/-- R310, R312: STCR. That R12 is read after the address, and once, is the model's reading (assumption 10). -/
def Obligations.StoreCru : Prop :=
  ∀ (gd : GA) (c : BitVec 4) (s : State),
    let n := transferCount c
    (n ≤ 8 →
      let a := s.ea gd .byte
      let base := cruBaseOf a.2
      let r := receiveBits base.2 base.1 n
      let v : Byte := BitVec.ofNat 8 r.1
      ∃ st', StIs s.st st' (laeBits v ++ parityBits v) ∧
        exec (.stcr gd c) s = .next (((r.2.setSt st').writeByte a.1 v).addCycles (cost s (.stcr gd c) .plain))) ∧
    (8 < n →
      let a := s.ea gd .word
      let base := cruBaseOf a.2
      let r := receiveBits base.2 base.1 n
      let v : Word := BitVec.ofNat 16 r.1
      ∃ st', StIs s.st st' (laeBits v) ∧
        exec (.stcr gd c) s = .next (((r.2.setSt st').writeWord a.1 v).addCycles (cost s (.stcr gd c) .plain)))

/-- R313 to R318: SRA, SRL, SLA and SRC. That R0 is read before register W is the model's reading (assumption 11). -/
def Obligations.Shifts : Prop :=
  ∀ (w : Reg) (c : BitVec 4),
    ShiftIs (.sra w c) w c (fun v n => BitVec.ofInt 16 (v.toInt / 2 ^ n))
      (fun v n => (12, v.getLsbD (n - 1)) :: laeBits (BitVec.ofInt 16 (v.toInt / 2 ^ n))) ∧
    ShiftIs (.srl w c) w c (fun v n => BitVec.ofNat 16 (v.toNat / 2 ^ n))
      (fun v n => (12, v.getLsbD (n - 1)) :: laeBits (BitVec.ofNat 16 (v.toNat / 2 ^ n))) ∧
    ShiftIs (.sla w c) w c (fun v n => BitVec.ofNat 16 (v.toNat * 2 ^ n))
      (fun v n => [(12, v.getLsbD (16 - n)),
          (11, (List.range n).any (fun k => (v <<< (k + 1)).getLsbD 15 != v.getLsbD 15))] ++
        laeBits (BitVec.ofNat 16 (v.toNat * 2 ^ n))) ∧
    ShiftIs (.src w c) w c (fun v n => v.rotateRight n)
      (fun v n => (12, v.getLsbD (n - 1)) :: laeBits (v.rotateRight n))

/-- R330, R374: BLWP and RTWP. -/
def Obligations.BlwpRtwp : Prop :=
  ∀ (g : GA) (s : State),
    (let a := s.ea g .word
     let nwp := a.2.readWord a.1
     let npc := nwp.2.readWord (a.1 + 2)
     let t := saveContext (npc.2.setWp nwp.1) (evenAddr nwp.1) s.wp a.2.pc s.st
     exec (.blwp g) s = .next (((t.setPc npc.1).setNoIntCheck true).addCycles (cost s (.blwp g) .plain))) ∧
    (let nst := s.readWord (regAddr s 15)
     let npc := nst.2.readWord (regAddr s 14)
     let nwp := npc.2.readWord (regAddr s 13)
     ∃ st' : Word, (∀ j, j < 16 → st'.getLsbD j = (nst.1.getLsbD j && !decide (4 ≤ j ∧ j ≤ 8))) ∧
       exec .rtwp s = .next ((((nwp.2.setSt st').setPc npc.1).setWp nwp.1).addCycles (cost s .rtwp .plain)))

/-- R331, R340: B and BL. -/
def Obligations.Branches : Prop :=
  ∀ (g : GA) (s : State),
    let a := s.ea g .word
    exec (.b g) s = .next ((a.2.setPc a.1).addCycles (cost s (.b g) .plain)) ∧
    exec (.bl g) s = .next (((a.2.writeWord (regAddr s 11) a.2.pc).setPc a.1).addCycles (cost s (.bl g) .plain))

/-- R332: X runs the word at its operand, and X of X nests: the n-th word of the chain is the first that is no X. Sixteen
words are the model's step (assumption 8): a longer chain stands open and goes on in the next step, and where it comes to its
end there, the end word has its effect, the base costs of all its X's are paid, and the interrupt check and the budget test
follow, once. -/
def Obligations.Execute : Prop :=
  ∀ (g : GA) (s : State),
    (∀ n, n < 16 → (∀ k, k < n → isX (decodeWord (trail s g k).1) = true) →
      isX (decodeWord (trail s g n).1) = false →
      ∃ t, exec (decodeWord (trail s g n).1) (trail s g n).2.1 = .next t ∧
        exec (.x g) s = .next (t.addCycles (trail s g n).2.2)) ∧
    ((∀ k, k < 16 → isX (decodeWord (trail s g k).1) = true) →
      let p := trail s g 16
      let seen : XSeen := ⟨p.1, p.2.1.pc, p.2.1.cartBank, p.2.1.mapper, p.2.1.pool, p.2.1.scratch, p.2.1.draws⟩
      exec (.x g) s = .next { p.2.1 with xChain := some ⟨p.1, p.2.2, ⟨1, some seen, false⟩⟩ }) ∧
    (∀ c : XChain, s.pendingCall = none → s.xChain = some c →
      let p := trailFrom (c.word, { s with xChain := none }, c.owed)
      (∀ n, n < 16 → (∀ k, k < n → isX (decodeWord (p k).1) = true) → isX (decodeWord (p n).1) = false →
        ∃ t, exec (decodeWord (p n).1) (p n).2.1 = .next t ∧
          step s = .next (({ t with cycles := t.cycles + (p n).2.2 }).interruptCheck.frameTest)) ∧
      ((∀ k, k < 16 → isX (decodeWord (p k).1) = true) →
        ∃ m : XMark, m.turns = c.mark.turns + 1 ∧
          step s = .next { (p 16).2.1 with xChain := some ⟨(p 16).1, (p 16).2.2, m⟩ }))

/-- R333, R342, R335, R341: CLR, SETO, INV and SWPB. -/
def Obligations.OperandSetters : Prop :=
  ∀ g : GA,
    (∀ s : State,
      let a := s.ea g .word
      exec (.clr g) s = .next ((a.2.writeWord a.1 0x0000).addCycles (cost s (.clr g) .plain)) ∧
      exec (.seto g) s = .next ((a.2.writeWord a.1 0xFFFF).addCycles (cost s (.seto g) .plain))) ∧
    SingleWord (.inv g) g (fun v => BitVec.ofNat 16 (65535 - v.toNat))
      (fun v => laeBits (BitVec.ofNat 16 (65535 - v.toNat) : Word)) ∧
    SingleWord (.swpb g) g (fun v => BitVec.ofNat 16 (v.toNat % 256 * 256 + v.toNat / 256)) (fun _ => [])

/-- R334, R336 to R339: NEG, INC, INCT, DEC and DECT. -/
def Obligations.Counting : Prop :=
  ∀ g : GA,
    SingleWord (.neg g) g (fun v => 0 - v)
      (fun v => [(12, decide (v = 0)), (11, decide (v = 0x8000))] ++ laeBits (0 - v)) ∧
    SingleWord (.inc g) g (fun v => v + 1) (fun v => addBits v 1) ∧
    SingleWord (.inct g) g (fun v => v + 2) (fun v => addBits v 2) ∧
    SingleWord (.dec g) g (fun v => v - 1)
      (fun v => [(12, decide (1 ≤ v.toNat)), (11, decide (v = 0x8000))] ++ laeBits (v - 1)) ∧
    SingleWord (.dect g) g (fun v => v - 2) (fun v => subBits v 2)

/-- R343: ABS. -/
def Obligations.AbsoluteValue : Prop :=
  ∀ (g : GA) (s : State),
    let x := wordOperand s g
    ∃ st', StIs s.st st' ([(12, false), (11, decide (x.2.1 = 0x8000))] ++ laeBits x.2.1) ∧
      (x.2.1.toInt < 0 →
        exec (.abs g) s =
          .next (((x.2.2.setSt st').writeWord x.1 (BitVec.ofInt 16 (-x.2.1.toInt))).addCycles (cost s (.abs g) .negative))) ∧
      (0 ≤ x.2.1.toInt →
        exec (.abs g) s = .next ((x.2.2.setSt st').addCycles (cost s (.abs g) .nonNegative)))

/-- R361 to R365: LI, AI, ANDI, ORI and CI. -/
def Obligations.Immediates : Prop :=
  ∀ w : Reg,
    (∀ s : State,
      let imm := s.fetch
      ∃ st', StIs s.st st' (laeBits imm.1) ∧
        exec (.li w) s =
          .next (((imm.2.setSt st').writeWord (regAddr s w.toNat) imm.1).addCycles (cost s (.li w) .plain))) ∧
    ImmediateWord (.ai w) w (fun x imm => x + imm) (fun x imm => addBits x imm) ∧
    ImmediateWord (.andi w) w (fun x imm => x &&& imm) (fun x imm => laeBits (x &&& imm)) ∧
    ImmediateWord (.ori w) w (fun x imm => x ||| imm) (fun x imm => laeBits (x ||| imm)) ∧
    (∀ s : State,
      let imm := s.fetch
      let x := imm.2.readWord (regAddr s w.toNat)
      ∃ st', StIs s.st st' (cmpBits x.1 imm.1) ∧
        exec (.ci w) s = .next ((x.2.setSt st').addCycles (cost s (.ci w) .plain)))

/-- R366, R367, R368, R372: STWP, STST, LWPI and LIMI. -/
def Obligations.InternalRegisters : Prop :=
  ∀ (w : Reg) (s : State),
    exec (.stwp w) s = .next ((s.writeWord (regAddr s w.toNat) s.wp).addCycles (cost s (.stwp w) .plain)) ∧
    exec (.stst w) s = .next ((s.writeWord (regAddr s w.toNat) s.st).addCycles (cost s (.stst w) .plain)) ∧
    exec .lwpi s = .next ((s.fetch.2.setWp s.fetch.1).addCycles (cost s .lwpi .plain)) ∧
    ∃ st', StIs s.st st' (maskBits (s.fetch.1.toNat % 16)) ∧
      exec .limi s = .next ((s.fetch.2.setSt st').addCycles (cost s .limi .plain))

/-- R373, R375 to R379: IDLE, and the external instructions, which log an event with the address of their word, as the step
noted it (StepRunsDecoded). That it is the X's address when X executes one is the model's choice (assumption 28). -/
def Obligations.IdleAndExternals : Prop :=
  ∀ s : State,
    let logged (op : ExternalOp) : List Event := s.events ++ [.unsupportedExtendedOperation s.instPc op]
    exec .idle s = .next { s with run := .idleWaiting, cycles := s.cycles + cost s .idle .plain } ∧
    (∃ st', StIs s.st st' (maskBits 0) ∧
      exec .rset s = .next { s with st := st', events := logged .rset, cycles := s.cycles + cost s .rset .plain }) ∧
    exec .ckon s = .next { s with events := logged .ckon, cycles := s.cycles + cost s .ckon .plain } ∧
    exec .ckof s = .next { s with events := logged .ckof, cycles := s.cycles + cost s .ckof .plain } ∧
    exec .lrex s = .next { s with events := logged .lrex, cycles := s.cycles + cost s .lrex .plain }

/-- R380, R186: a word of an ILLEGAL range is logged with its address, costs INVALID_CYCLES and changes nothing else. -/
def Obligations.IllegalWords : Prop :=
  ∀ s : State,
    let logged (w : Word) : State :=
      { s with events := s.events ++ [.invalidOpcode s.instPc w], cycles := s.cycles + s.md.invalidCycles }
    (∀ w : Word, w.toNat ≤ 0x01FF ∨ (0x0320 ≤ w.toNat ∧ w.toNat ≤ 0x033F) ∨ (0x0780 ≤ w.toNat ∧ w.toNat ≤ 0x07FF) ∨
      (0x0C00 ≤ w.toNat ∧ w.toNat ≤ 0x0FFF) → exec (decodeWord w) s = .next (logged w)) ∧
    (∀ low, exec (.illegal0000 low) s = .next (logged (BitVec.ofNat 16 low.toNat))) ∧
    (∀ low, exec (.illegal0320 low) s = .next (logged (BitVec.ofNat 16 (0x0320 + low.toNat)))) ∧
    (∀ low, exec (.illegal0780 low) s = .next (logged (BitVec.ofNat 16 (0x0780 + low.toNat)))) ∧
    (∀ low, exec (.illegal0C00 low) s = .next (logged (BitVec.ofNat 16 (0x0C00 + low.toNat))))

/-- The flag rules R206 and R207 against exact arithmetic: OV says that the exact signed sum or difference does not fit, C
that the exact unsigned sum does not fit or that the difference needs no borrow. -/
def Obligations.FlagsAreExact : Prop :=
  ∀ (d v : Word) (e u : Byte) (st : Word),
    ((addFlags d v st).getLsbD 11 = true ↔ d.toInt + v.toInt < -32768 ∨ 32767 < d.toInt + v.toInt) ∧
    ((subFlags d v st).getLsbD 11 = true ↔ d.toInt - v.toInt < -32768 ∨ 32767 < d.toInt - v.toInt) ∧
    ((addFlags e u st).getLsbD 11 = true ↔ e.toInt + u.toInt < -128 ∨ 127 < e.toInt + u.toInt) ∧
    ((subFlags e u st).getLsbD 11 = true ↔ e.toInt - u.toInt < -128 ∨ 127 < e.toInt - u.toInt) ∧
    ((addFlags d v st).getLsbD 12 = true ↔ (d + v).toNat < d.toNat) ∧
    ((subFlags d v st).getLsbD 12 = true ↔ (d - v).toNat = d.toNat - v.toNat ∧ v.toNat ≤ d.toNat)

/-- R146, R473, R491: in the middle of an X chain, which is the middle of an instruction, no host call is served but a reset of
a chain that is a hang: one that never ends, whether it repeats itself or goes on through the values it draws, or one that is
marked endless; that reset ends the chain; a chain at an X of itself is a hang. The mark, which XChainHangs is about, is the
model's (assumption 8). -/
def Obligations.ResetEndsHang : Prop :=
  (∀ (s : State) (c : XChain) (call : HostCall) (rest : List HostCall), s.xChain = some c →
    s.sched.queue = call :: rest →
    (s.pendingCall = some (call, rest) ↔ Hang s c ∧ ∃ md, call = .reset md) ∧
    (¬ (Hang s c ∧ ∃ md, call = .reset md) → s.pendingCall = none)) ∧
  (∀ (s t : State) (c : XChain) (md : Descriptor) (rest : List HostCall), s.xChain = some c → Hang s c →
    s.sched.queue = .reset md :: rest → descriptorOk md = true → step s = .next t →
    t.xChain = none ∧ t.run = .halted ∧ t.sched.inBurst = false ∧ t.sched.queue = rest ∧ t.cycles = 0 ∧ t.md = md) ∧
  (∀ (s : State) (c : XChain) (n : Reg) (md : Descriptor) (rest : List HostCall), s.xChain = some c →
    s.sched.queue = .reset md :: rest → decodeWord c.word = .x (.reg n) →
    s.peekWord (evenAddr (regAddr s n.toNat)) = some c.word →
    s.pendingCall = some (.reset md, rest))
end

