-- ==== Sys2Proof/Laws/State.lean ====
section
/-! SUPPORT. One lemma per field per update of State, each true by rfl: no later proof unfolds a record update. -/

namespace Sys2Proof.Machine

@[simp] theorem setPc_md (s : State) (v : Word) : (s.setPc v).md = s.md := rfl
@[simp] theorem setPc_pc (s : State) (v : Word) : (s.setPc v).pc = evenAddr v := rfl
@[simp] theorem setPc_wp (s : State) (v : Word) : (s.setPc v).wp = s.wp := rfl
@[simp] theorem setPc_st (s : State) (v : Word) : (s.setPc v).st = s.st := rfl
@[simp] theorem setPc_instPc (s : State) (v : Word) : (s.setPc v).instPc = s.instPc := rfl
@[simp] theorem setPc_cycles (s : State) (v : Word) : (s.setPc v).cycles = s.cycles := rfl
@[simp] theorem setPc_run (s : State) (v : Word) : (s.setPc v).run = s.run := rfl
@[simp] theorem setPc_intPending (s : State) (v : Word) : (s.setPc v).intPending = s.intPending := rfl
@[simp] theorem setPc_noIntCheck (s : State) (v : Word) : (s.setPc v).noIntCheck = s.noIntCheck := rfl
@[simp] theorem setPc_events (s : State) (v : Word) : (s.setPc v).events = s.events := rfl
@[simp] theorem setPc_cartBank (s : State) (v : Word) : (s.setPc v).cartBank = s.cartBank := rfl
@[simp] theorem setPc_io (s : State) (v : Word) : (s.setPc v).io = s.io := rfl
@[simp] theorem setPc_kbd (s : State) (v : Word) : (s.setPc v).kbd = s.kbd := rfl
@[simp] theorem setPc_mapper (s : State) (v : Word) : (s.setPc v).mapper = s.mapper := rfl
@[simp] theorem setPc_tags (s : State) (v : Word) : (s.setPc v).tags = s.tags := rfl
@[simp] theorem setPc_pool (s : State) (v : Word) : (s.setPc v).pool = s.pool := rfl
@[simp] theorem setPc_scratch (s : State) (v : Word) : (s.setPc v).scratch = s.scratch := rfl
@[simp] theorem setPc_sched (s : State) (v : Word) : (s.setPc v).sched = s.sched := rfl
@[simp] theorem setPc_xChain (s : State) (v : Word) : (s.setPc v).xChain = s.xChain := rfl
@[simp] theorem setPc_draws (s : State) (v : Word) : (s.setPc v).draws = s.draws := rfl
@[simp] theorem setPc_devInputs (s : State) (v : Word) : (s.setPc v).devInputs = s.devInputs := rfl
@[simp] theorem setPc_cruInputs (s : State) (v : Word) : (s.setPc v).cruInputs = s.cruInputs := rfl

@[simp] theorem setWp_md (s : State) (v : Word) : (s.setWp v).md = s.md := rfl
@[simp] theorem setWp_pc (s : State) (v : Word) : (s.setWp v).pc = s.pc := rfl
@[simp] theorem setWp_wp (s : State) (v : Word) : (s.setWp v).wp = evenAddr v := rfl
@[simp] theorem setWp_st (s : State) (v : Word) : (s.setWp v).st = s.st := rfl
@[simp] theorem setWp_instPc (s : State) (v : Word) : (s.setWp v).instPc = s.instPc := rfl
@[simp] theorem setWp_cycles (s : State) (v : Word) : (s.setWp v).cycles = s.cycles := rfl
@[simp] theorem setWp_run (s : State) (v : Word) : (s.setWp v).run = s.run := rfl
@[simp] theorem setWp_intPending (s : State) (v : Word) : (s.setWp v).intPending = s.intPending := rfl
@[simp] theorem setWp_noIntCheck (s : State) (v : Word) : (s.setWp v).noIntCheck = s.noIntCheck := rfl
@[simp] theorem setWp_events (s : State) (v : Word) : (s.setWp v).events = s.events := rfl
@[simp] theorem setWp_cartBank (s : State) (v : Word) : (s.setWp v).cartBank = s.cartBank := rfl
@[simp] theorem setWp_io (s : State) (v : Word) : (s.setWp v).io = s.io := rfl
@[simp] theorem setWp_kbd (s : State) (v : Word) : (s.setWp v).kbd = s.kbd := rfl
@[simp] theorem setWp_mapper (s : State) (v : Word) : (s.setWp v).mapper = s.mapper := rfl
@[simp] theorem setWp_tags (s : State) (v : Word) : (s.setWp v).tags = s.tags := rfl
@[simp] theorem setWp_pool (s : State) (v : Word) : (s.setWp v).pool = s.pool := rfl
@[simp] theorem setWp_scratch (s : State) (v : Word) : (s.setWp v).scratch = s.scratch := rfl
@[simp] theorem setWp_sched (s : State) (v : Word) : (s.setWp v).sched = s.sched := rfl
@[simp] theorem setWp_xChain (s : State) (v : Word) : (s.setWp v).xChain = s.xChain := rfl
@[simp] theorem setWp_draws (s : State) (v : Word) : (s.setWp v).draws = s.draws := rfl
@[simp] theorem setWp_devInputs (s : State) (v : Word) : (s.setWp v).devInputs = s.devInputs := rfl
@[simp] theorem setWp_cruInputs (s : State) (v : Word) : (s.setWp v).cruInputs = s.cruInputs := rfl

@[simp] theorem setSt_md (s : State) (v : Word) : (s.setSt v).md = s.md := rfl
@[simp] theorem setSt_pc (s : State) (v : Word) : (s.setSt v).pc = s.pc := rfl
@[simp] theorem setSt_wp (s : State) (v : Word) : (s.setSt v).wp = s.wp := rfl
@[simp] theorem setSt_st (s : State) (v : Word) : (s.setSt v).st = v := rfl
@[simp] theorem setSt_instPc (s : State) (v : Word) : (s.setSt v).instPc = s.instPc := rfl
@[simp] theorem setSt_cycles (s : State) (v : Word) : (s.setSt v).cycles = s.cycles := rfl
@[simp] theorem setSt_run (s : State) (v : Word) : (s.setSt v).run = s.run := rfl
@[simp] theorem setSt_intPending (s : State) (v : Word) : (s.setSt v).intPending = s.intPending := rfl
@[simp] theorem setSt_noIntCheck (s : State) (v : Word) : (s.setSt v).noIntCheck = s.noIntCheck := rfl
@[simp] theorem setSt_events (s : State) (v : Word) : (s.setSt v).events = s.events := rfl
@[simp] theorem setSt_cartBank (s : State) (v : Word) : (s.setSt v).cartBank = s.cartBank := rfl
@[simp] theorem setSt_io (s : State) (v : Word) : (s.setSt v).io = s.io := rfl
@[simp] theorem setSt_kbd (s : State) (v : Word) : (s.setSt v).kbd = s.kbd := rfl
@[simp] theorem setSt_mapper (s : State) (v : Word) : (s.setSt v).mapper = s.mapper := rfl
@[simp] theorem setSt_tags (s : State) (v : Word) : (s.setSt v).tags = s.tags := rfl
@[simp] theorem setSt_pool (s : State) (v : Word) : (s.setSt v).pool = s.pool := rfl
@[simp] theorem setSt_scratch (s : State) (v : Word) : (s.setSt v).scratch = s.scratch := rfl
@[simp] theorem setSt_sched (s : State) (v : Word) : (s.setSt v).sched = s.sched := rfl
@[simp] theorem setSt_xChain (s : State) (v : Word) : (s.setSt v).xChain = s.xChain := rfl
@[simp] theorem setSt_draws (s : State) (v : Word) : (s.setSt v).draws = s.draws := rfl
@[simp] theorem setSt_devInputs (s : State) (v : Word) : (s.setSt v).devInputs = s.devInputs := rfl
@[simp] theorem setSt_cruInputs (s : State) (v : Word) : (s.setSt v).cruInputs = s.cruInputs := rfl

@[simp] theorem setInstPc_md (s : State) (v : Word) : (s.setInstPc v).md = s.md := rfl
@[simp] theorem setInstPc_pc (s : State) (v : Word) : (s.setInstPc v).pc = s.pc := rfl
@[simp] theorem setInstPc_wp (s : State) (v : Word) : (s.setInstPc v).wp = s.wp := rfl
@[simp] theorem setInstPc_st (s : State) (v : Word) : (s.setInstPc v).st = s.st := rfl
@[simp] theorem setInstPc_instPc (s : State) (v : Word) : (s.setInstPc v).instPc = v := rfl
@[simp] theorem setInstPc_cycles (s : State) (v : Word) : (s.setInstPc v).cycles = s.cycles := rfl
@[simp] theorem setInstPc_run (s : State) (v : Word) : (s.setInstPc v).run = s.run := rfl
@[simp] theorem setInstPc_intPending (s : State) (v : Word) : (s.setInstPc v).intPending = s.intPending := rfl
@[simp] theorem setInstPc_noIntCheck (s : State) (v : Word) : (s.setInstPc v).noIntCheck = s.noIntCheck := rfl
@[simp] theorem setInstPc_events (s : State) (v : Word) : (s.setInstPc v).events = s.events := rfl
@[simp] theorem setInstPc_cartBank (s : State) (v : Word) : (s.setInstPc v).cartBank = s.cartBank := rfl
@[simp] theorem setInstPc_io (s : State) (v : Word) : (s.setInstPc v).io = s.io := rfl
@[simp] theorem setInstPc_kbd (s : State) (v : Word) : (s.setInstPc v).kbd = s.kbd := rfl
@[simp] theorem setInstPc_mapper (s : State) (v : Word) : (s.setInstPc v).mapper = s.mapper := rfl
@[simp] theorem setInstPc_tags (s : State) (v : Word) : (s.setInstPc v).tags = s.tags := rfl
@[simp] theorem setInstPc_pool (s : State) (v : Word) : (s.setInstPc v).pool = s.pool := rfl
@[simp] theorem setInstPc_scratch (s : State) (v : Word) : (s.setInstPc v).scratch = s.scratch := rfl
@[simp] theorem setInstPc_sched (s : State) (v : Word) : (s.setInstPc v).sched = s.sched := rfl
@[simp] theorem setInstPc_xChain (s : State) (v : Word) : (s.setInstPc v).xChain = s.xChain := rfl
@[simp] theorem setInstPc_draws (s : State) (v : Word) : (s.setInstPc v).draws = s.draws := rfl
@[simp] theorem setInstPc_devInputs (s : State) (v : Word) : (s.setInstPc v).devInputs = s.devInputs := rfl
@[simp] theorem setInstPc_cruInputs (s : State) (v : Word) : (s.setInstPc v).cruInputs = s.cruInputs := rfl

@[simp] theorem addCycles_md (s : State) (v : Nat) : (s.addCycles v).md = s.md := rfl
@[simp] theorem addCycles_pc (s : State) (v : Nat) : (s.addCycles v).pc = s.pc := rfl
@[simp] theorem addCycles_wp (s : State) (v : Nat) : (s.addCycles v).wp = s.wp := rfl
@[simp] theorem addCycles_st (s : State) (v : Nat) : (s.addCycles v).st = s.st := rfl
@[simp] theorem addCycles_instPc (s : State) (v : Nat) : (s.addCycles v).instPc = s.instPc := rfl
@[simp] theorem addCycles_cycles (s : State) (v : Nat) : (s.addCycles v).cycles = s.cycles + v := rfl
@[simp] theorem addCycles_run (s : State) (v : Nat) : (s.addCycles v).run = s.run := rfl
@[simp] theorem addCycles_intPending (s : State) (v : Nat) : (s.addCycles v).intPending = s.intPending := rfl
@[simp] theorem addCycles_noIntCheck (s : State) (v : Nat) : (s.addCycles v).noIntCheck = s.noIntCheck := rfl
@[simp] theorem addCycles_events (s : State) (v : Nat) : (s.addCycles v).events = s.events := rfl
@[simp] theorem addCycles_cartBank (s : State) (v : Nat) : (s.addCycles v).cartBank = s.cartBank := rfl
@[simp] theorem addCycles_io (s : State) (v : Nat) : (s.addCycles v).io = s.io := rfl
@[simp] theorem addCycles_kbd (s : State) (v : Nat) : (s.addCycles v).kbd = s.kbd := rfl
@[simp] theorem addCycles_mapper (s : State) (v : Nat) : (s.addCycles v).mapper = s.mapper := rfl
@[simp] theorem addCycles_tags (s : State) (v : Nat) : (s.addCycles v).tags = s.tags := rfl
@[simp] theorem addCycles_pool (s : State) (v : Nat) : (s.addCycles v).pool = s.pool := rfl
@[simp] theorem addCycles_scratch (s : State) (v : Nat) : (s.addCycles v).scratch = s.scratch := rfl
@[simp] theorem addCycles_sched (s : State) (v : Nat) : (s.addCycles v).sched = s.sched := rfl
@[simp] theorem addCycles_xChain (s : State) (v : Nat) : (s.addCycles v).xChain = s.xChain := rfl
@[simp] theorem addCycles_draws (s : State) (v : Nat) : (s.addCycles v).draws = s.draws := rfl
@[simp] theorem addCycles_devInputs (s : State) (v : Nat) : (s.addCycles v).devInputs = s.devInputs := rfl
@[simp] theorem addCycles_cruInputs (s : State) (v : Nat) : (s.addCycles v).cruInputs = s.cruInputs := rfl

@[simp] theorem setCycles_md (s : State) (v : Nat) : (s.setCycles v).md = s.md := rfl
@[simp] theorem setCycles_pc (s : State) (v : Nat) : (s.setCycles v).pc = s.pc := rfl
@[simp] theorem setCycles_wp (s : State) (v : Nat) : (s.setCycles v).wp = s.wp := rfl
@[simp] theorem setCycles_st (s : State) (v : Nat) : (s.setCycles v).st = s.st := rfl
@[simp] theorem setCycles_instPc (s : State) (v : Nat) : (s.setCycles v).instPc = s.instPc := rfl
@[simp] theorem setCycles_cycles (s : State) (v : Nat) : (s.setCycles v).cycles = v := rfl
@[simp] theorem setCycles_run (s : State) (v : Nat) : (s.setCycles v).run = s.run := rfl
@[simp] theorem setCycles_intPending (s : State) (v : Nat) : (s.setCycles v).intPending = s.intPending := rfl
@[simp] theorem setCycles_noIntCheck (s : State) (v : Nat) : (s.setCycles v).noIntCheck = s.noIntCheck := rfl
@[simp] theorem setCycles_events (s : State) (v : Nat) : (s.setCycles v).events = s.events := rfl
@[simp] theorem setCycles_cartBank (s : State) (v : Nat) : (s.setCycles v).cartBank = s.cartBank := rfl
@[simp] theorem setCycles_io (s : State) (v : Nat) : (s.setCycles v).io = s.io := rfl
@[simp] theorem setCycles_kbd (s : State) (v : Nat) : (s.setCycles v).kbd = s.kbd := rfl
@[simp] theorem setCycles_mapper (s : State) (v : Nat) : (s.setCycles v).mapper = s.mapper := rfl
@[simp] theorem setCycles_tags (s : State) (v : Nat) : (s.setCycles v).tags = s.tags := rfl
@[simp] theorem setCycles_pool (s : State) (v : Nat) : (s.setCycles v).pool = s.pool := rfl
@[simp] theorem setCycles_scratch (s : State) (v : Nat) : (s.setCycles v).scratch = s.scratch := rfl
@[simp] theorem setCycles_sched (s : State) (v : Nat) : (s.setCycles v).sched = s.sched := rfl
@[simp] theorem setCycles_xChain (s : State) (v : Nat) : (s.setCycles v).xChain = s.xChain := rfl
@[simp] theorem setCycles_draws (s : State) (v : Nat) : (s.setCycles v).draws = s.draws := rfl
@[simp] theorem setCycles_devInputs (s : State) (v : Nat) : (s.setCycles v).devInputs = s.devInputs := rfl
@[simp] theorem setCycles_cruInputs (s : State) (v : Nat) : (s.setCycles v).cruInputs = s.cruInputs := rfl

@[simp] theorem setRun_md (s : State) (v : RunState) : (s.setRun v).md = s.md := rfl
@[simp] theorem setRun_pc (s : State) (v : RunState) : (s.setRun v).pc = s.pc := rfl
@[simp] theorem setRun_wp (s : State) (v : RunState) : (s.setRun v).wp = s.wp := rfl
@[simp] theorem setRun_st (s : State) (v : RunState) : (s.setRun v).st = s.st := rfl
@[simp] theorem setRun_instPc (s : State) (v : RunState) : (s.setRun v).instPc = s.instPc := rfl
@[simp] theorem setRun_cycles (s : State) (v : RunState) : (s.setRun v).cycles = s.cycles := rfl
@[simp] theorem setRun_run (s : State) (v : RunState) : (s.setRun v).run = v := rfl
@[simp] theorem setRun_intPending (s : State) (v : RunState) : (s.setRun v).intPending = s.intPending := rfl
@[simp] theorem setRun_noIntCheck (s : State) (v : RunState) : (s.setRun v).noIntCheck = s.noIntCheck := rfl
@[simp] theorem setRun_events (s : State) (v : RunState) : (s.setRun v).events = s.events := rfl
@[simp] theorem setRun_cartBank (s : State) (v : RunState) : (s.setRun v).cartBank = s.cartBank := rfl
@[simp] theorem setRun_io (s : State) (v : RunState) : (s.setRun v).io = s.io := rfl
@[simp] theorem setRun_kbd (s : State) (v : RunState) : (s.setRun v).kbd = s.kbd := rfl
@[simp] theorem setRun_mapper (s : State) (v : RunState) : (s.setRun v).mapper = s.mapper := rfl
@[simp] theorem setRun_tags (s : State) (v : RunState) : (s.setRun v).tags = s.tags := rfl
@[simp] theorem setRun_pool (s : State) (v : RunState) : (s.setRun v).pool = s.pool := rfl
@[simp] theorem setRun_scratch (s : State) (v : RunState) : (s.setRun v).scratch = s.scratch := rfl
@[simp] theorem setRun_sched (s : State) (v : RunState) : (s.setRun v).sched = s.sched := rfl
@[simp] theorem setRun_xChain (s : State) (v : RunState) : (s.setRun v).xChain = s.xChain := rfl
@[simp] theorem setRun_draws (s : State) (v : RunState) : (s.setRun v).draws = s.draws := rfl
@[simp] theorem setRun_devInputs (s : State) (v : RunState) : (s.setRun v).devInputs = s.devInputs := rfl
@[simp] theorem setRun_cruInputs (s : State) (v : RunState) : (s.setRun v).cruInputs = s.cruInputs := rfl

@[simp] theorem setIntPending_md (s : State) (v : Bool) : (s.setIntPending v).md = s.md := rfl
@[simp] theorem setIntPending_pc (s : State) (v : Bool) : (s.setIntPending v).pc = s.pc := rfl
@[simp] theorem setIntPending_wp (s : State) (v : Bool) : (s.setIntPending v).wp = s.wp := rfl
@[simp] theorem setIntPending_st (s : State) (v : Bool) : (s.setIntPending v).st = s.st := rfl
@[simp] theorem setIntPending_instPc (s : State) (v : Bool) : (s.setIntPending v).instPc = s.instPc := rfl
@[simp] theorem setIntPending_cycles (s : State) (v : Bool) : (s.setIntPending v).cycles = s.cycles := rfl
@[simp] theorem setIntPending_run (s : State) (v : Bool) : (s.setIntPending v).run = s.run := rfl
@[simp] theorem setIntPending_intPending (s : State) (v : Bool) : (s.setIntPending v).intPending = v := rfl
@[simp] theorem setIntPending_noIntCheck (s : State) (v : Bool) : (s.setIntPending v).noIntCheck = s.noIntCheck := rfl
@[simp] theorem setIntPending_events (s : State) (v : Bool) : (s.setIntPending v).events = s.events := rfl
@[simp] theorem setIntPending_cartBank (s : State) (v : Bool) : (s.setIntPending v).cartBank = s.cartBank := rfl
@[simp] theorem setIntPending_io (s : State) (v : Bool) : (s.setIntPending v).io = s.io := rfl
@[simp] theorem setIntPending_kbd (s : State) (v : Bool) : (s.setIntPending v).kbd = s.kbd := rfl
@[simp] theorem setIntPending_mapper (s : State) (v : Bool) : (s.setIntPending v).mapper = s.mapper := rfl
@[simp] theorem setIntPending_tags (s : State) (v : Bool) : (s.setIntPending v).tags = s.tags := rfl
@[simp] theorem setIntPending_pool (s : State) (v : Bool) : (s.setIntPending v).pool = s.pool := rfl
@[simp] theorem setIntPending_scratch (s : State) (v : Bool) : (s.setIntPending v).scratch = s.scratch := rfl
@[simp] theorem setIntPending_sched (s : State) (v : Bool) : (s.setIntPending v).sched = s.sched := rfl
@[simp] theorem setIntPending_xChain (s : State) (v : Bool) : (s.setIntPending v).xChain = s.xChain := rfl
@[simp] theorem setIntPending_draws (s : State) (v : Bool) : (s.setIntPending v).draws = s.draws := rfl
@[simp] theorem setIntPending_devInputs (s : State) (v : Bool) : (s.setIntPending v).devInputs = s.devInputs := rfl
@[simp] theorem setIntPending_cruInputs (s : State) (v : Bool) : (s.setIntPending v).cruInputs = s.cruInputs := rfl

@[simp] theorem setNoIntCheck_md (s : State) (v : Bool) : (s.setNoIntCheck v).md = s.md := rfl
@[simp] theorem setNoIntCheck_pc (s : State) (v : Bool) : (s.setNoIntCheck v).pc = s.pc := rfl
@[simp] theorem setNoIntCheck_wp (s : State) (v : Bool) : (s.setNoIntCheck v).wp = s.wp := rfl
@[simp] theorem setNoIntCheck_st (s : State) (v : Bool) : (s.setNoIntCheck v).st = s.st := rfl
@[simp] theorem setNoIntCheck_instPc (s : State) (v : Bool) : (s.setNoIntCheck v).instPc = s.instPc := rfl
@[simp] theorem setNoIntCheck_cycles (s : State) (v : Bool) : (s.setNoIntCheck v).cycles = s.cycles := rfl
@[simp] theorem setNoIntCheck_run (s : State) (v : Bool) : (s.setNoIntCheck v).run = s.run := rfl
@[simp] theorem setNoIntCheck_intPending (s : State) (v : Bool) : (s.setNoIntCheck v).intPending = s.intPending := rfl
@[simp] theorem setNoIntCheck_noIntCheck (s : State) (v : Bool) : (s.setNoIntCheck v).noIntCheck = v := rfl
@[simp] theorem setNoIntCheck_events (s : State) (v : Bool) : (s.setNoIntCheck v).events = s.events := rfl
@[simp] theorem setNoIntCheck_cartBank (s : State) (v : Bool) : (s.setNoIntCheck v).cartBank = s.cartBank := rfl
@[simp] theorem setNoIntCheck_io (s : State) (v : Bool) : (s.setNoIntCheck v).io = s.io := rfl
@[simp] theorem setNoIntCheck_kbd (s : State) (v : Bool) : (s.setNoIntCheck v).kbd = s.kbd := rfl
@[simp] theorem setNoIntCheck_mapper (s : State) (v : Bool) : (s.setNoIntCheck v).mapper = s.mapper := rfl
@[simp] theorem setNoIntCheck_tags (s : State) (v : Bool) : (s.setNoIntCheck v).tags = s.tags := rfl
@[simp] theorem setNoIntCheck_pool (s : State) (v : Bool) : (s.setNoIntCheck v).pool = s.pool := rfl
@[simp] theorem setNoIntCheck_scratch (s : State) (v : Bool) : (s.setNoIntCheck v).scratch = s.scratch := rfl
@[simp] theorem setNoIntCheck_sched (s : State) (v : Bool) : (s.setNoIntCheck v).sched = s.sched := rfl
@[simp] theorem setNoIntCheck_xChain (s : State) (v : Bool) : (s.setNoIntCheck v).xChain = s.xChain := rfl
@[simp] theorem setNoIntCheck_draws (s : State) (v : Bool) : (s.setNoIntCheck v).draws = s.draws := rfl
@[simp] theorem setNoIntCheck_devInputs (s : State) (v : Bool) : (s.setNoIntCheck v).devInputs = s.devInputs := rfl
@[simp] theorem setNoIntCheck_cruInputs (s : State) (v : Bool) : (s.setNoIntCheck v).cruInputs = s.cruInputs := rfl

@[simp] theorem log_md (s : State) (v : Event) : (s.log v).md = s.md := rfl
@[simp] theorem log_pc (s : State) (v : Event) : (s.log v).pc = s.pc := rfl
@[simp] theorem log_wp (s : State) (v : Event) : (s.log v).wp = s.wp := rfl
@[simp] theorem log_st (s : State) (v : Event) : (s.log v).st = s.st := rfl
@[simp] theorem log_instPc (s : State) (v : Event) : (s.log v).instPc = s.instPc := rfl
@[simp] theorem log_cycles (s : State) (v : Event) : (s.log v).cycles = s.cycles := rfl
@[simp] theorem log_run (s : State) (v : Event) : (s.log v).run = s.run := rfl
@[simp] theorem log_intPending (s : State) (v : Event) : (s.log v).intPending = s.intPending := rfl
@[simp] theorem log_noIntCheck (s : State) (v : Event) : (s.log v).noIntCheck = s.noIntCheck := rfl
@[simp] theorem log_events (s : State) (v : Event) : (s.log v).events = s.events ++ [v] := rfl
@[simp] theorem log_cartBank (s : State) (v : Event) : (s.log v).cartBank = s.cartBank := rfl
@[simp] theorem log_io (s : State) (v : Event) : (s.log v).io = s.io := rfl
@[simp] theorem log_kbd (s : State) (v : Event) : (s.log v).kbd = s.kbd := rfl
@[simp] theorem log_mapper (s : State) (v : Event) : (s.log v).mapper = s.mapper := rfl
@[simp] theorem log_tags (s : State) (v : Event) : (s.log v).tags = s.tags := rfl
@[simp] theorem log_pool (s : State) (v : Event) : (s.log v).pool = s.pool := rfl
@[simp] theorem log_scratch (s : State) (v : Event) : (s.log v).scratch = s.scratch := rfl
@[simp] theorem log_sched (s : State) (v : Event) : (s.log v).sched = s.sched := rfl
@[simp] theorem log_xChain (s : State) (v : Event) : (s.log v).xChain = s.xChain := rfl
@[simp] theorem log_draws (s : State) (v : Event) : (s.log v).draws = s.draws := rfl
@[simp] theorem log_devInputs (s : State) (v : Event) : (s.log v).devInputs = s.devInputs := rfl
@[simp] theorem log_cruInputs (s : State) (v : Event) : (s.log v).cruInputs = s.cruInputs := rfl

@[simp] theorem setCartBank_md (s : State) (v : Nat) : (s.setCartBank v).md = s.md := rfl
@[simp] theorem setCartBank_pc (s : State) (v : Nat) : (s.setCartBank v).pc = s.pc := rfl
@[simp] theorem setCartBank_wp (s : State) (v : Nat) : (s.setCartBank v).wp = s.wp := rfl
@[simp] theorem setCartBank_st (s : State) (v : Nat) : (s.setCartBank v).st = s.st := rfl
@[simp] theorem setCartBank_instPc (s : State) (v : Nat) : (s.setCartBank v).instPc = s.instPc := rfl
@[simp] theorem setCartBank_cycles (s : State) (v : Nat) : (s.setCartBank v).cycles = s.cycles := rfl
@[simp] theorem setCartBank_run (s : State) (v : Nat) : (s.setCartBank v).run = s.run := rfl
@[simp] theorem setCartBank_intPending (s : State) (v : Nat) : (s.setCartBank v).intPending = s.intPending := rfl
@[simp] theorem setCartBank_noIntCheck (s : State) (v : Nat) : (s.setCartBank v).noIntCheck = s.noIntCheck := rfl
@[simp] theorem setCartBank_events (s : State) (v : Nat) : (s.setCartBank v).events = s.events := rfl
@[simp] theorem setCartBank_cartBank (s : State) (v : Nat) : (s.setCartBank v).cartBank = v := rfl
@[simp] theorem setCartBank_io (s : State) (v : Nat) : (s.setCartBank v).io = s.io := rfl
@[simp] theorem setCartBank_kbd (s : State) (v : Nat) : (s.setCartBank v).kbd = s.kbd := rfl
@[simp] theorem setCartBank_mapper (s : State) (v : Nat) : (s.setCartBank v).mapper = s.mapper := rfl
@[simp] theorem setCartBank_tags (s : State) (v : Nat) : (s.setCartBank v).tags = s.tags := rfl
@[simp] theorem setCartBank_pool (s : State) (v : Nat) : (s.setCartBank v).pool = s.pool := rfl
@[simp] theorem setCartBank_scratch (s : State) (v : Nat) : (s.setCartBank v).scratch = s.scratch := rfl
@[simp] theorem setCartBank_sched (s : State) (v : Nat) : (s.setCartBank v).sched = s.sched := rfl
@[simp] theorem setCartBank_xChain (s : State) (v : Nat) : (s.setCartBank v).xChain = s.xChain := rfl
@[simp] theorem setCartBank_draws (s : State) (v : Nat) : (s.setCartBank v).draws = s.draws := rfl
@[simp] theorem setCartBank_devInputs (s : State) (v : Nat) : (s.setCartBank v).devInputs = s.devInputs := rfl
@[simp] theorem setCartBank_cruInputs (s : State) (v : Nat) : (s.setCartBank v).cruInputs = s.cruInputs := rfl

@[simp] theorem setIo_md (s : State) (v : Controller) : (s.setIo v).md = s.md := rfl
@[simp] theorem setIo_pc (s : State) (v : Controller) : (s.setIo v).pc = s.pc := rfl
@[simp] theorem setIo_wp (s : State) (v : Controller) : (s.setIo v).wp = s.wp := rfl
@[simp] theorem setIo_st (s : State) (v : Controller) : (s.setIo v).st = s.st := rfl
@[simp] theorem setIo_instPc (s : State) (v : Controller) : (s.setIo v).instPc = s.instPc := rfl
@[simp] theorem setIo_cycles (s : State) (v : Controller) : (s.setIo v).cycles = s.cycles := rfl
@[simp] theorem setIo_run (s : State) (v : Controller) : (s.setIo v).run = s.run := rfl
@[simp] theorem setIo_intPending (s : State) (v : Controller) : (s.setIo v).intPending = s.intPending := rfl
@[simp] theorem setIo_noIntCheck (s : State) (v : Controller) : (s.setIo v).noIntCheck = s.noIntCheck := rfl
@[simp] theorem setIo_events (s : State) (v : Controller) : (s.setIo v).events = s.events := rfl
@[simp] theorem setIo_cartBank (s : State) (v : Controller) : (s.setIo v).cartBank = s.cartBank := rfl
@[simp] theorem setIo_io (s : State) (v : Controller) : (s.setIo v).io = v := rfl
@[simp] theorem setIo_kbd (s : State) (v : Controller) : (s.setIo v).kbd = s.kbd := rfl
@[simp] theorem setIo_mapper (s : State) (v : Controller) : (s.setIo v).mapper = s.mapper := rfl
@[simp] theorem setIo_tags (s : State) (v : Controller) : (s.setIo v).tags = s.tags := rfl
@[simp] theorem setIo_pool (s : State) (v : Controller) : (s.setIo v).pool = s.pool := rfl
@[simp] theorem setIo_scratch (s : State) (v : Controller) : (s.setIo v).scratch = s.scratch := rfl
@[simp] theorem setIo_sched (s : State) (v : Controller) : (s.setIo v).sched = s.sched := rfl
@[simp] theorem setIo_xChain (s : State) (v : Controller) : (s.setIo v).xChain = s.xChain := rfl
@[simp] theorem setIo_draws (s : State) (v : Controller) : (s.setIo v).draws = s.draws := rfl
@[simp] theorem setIo_devInputs (s : State) (v : Controller) : (s.setIo v).devInputs = s.devInputs := rfl
@[simp] theorem setIo_cruInputs (s : State) (v : Controller) : (s.setIo v).cruInputs = s.cruInputs := rfl

@[simp] theorem setKbd_md (s : State) (v : Keyboard) : (s.setKbd v).md = s.md := rfl
@[simp] theorem setKbd_pc (s : State) (v : Keyboard) : (s.setKbd v).pc = s.pc := rfl
@[simp] theorem setKbd_wp (s : State) (v : Keyboard) : (s.setKbd v).wp = s.wp := rfl
@[simp] theorem setKbd_st (s : State) (v : Keyboard) : (s.setKbd v).st = s.st := rfl
@[simp] theorem setKbd_instPc (s : State) (v : Keyboard) : (s.setKbd v).instPc = s.instPc := rfl
@[simp] theorem setKbd_cycles (s : State) (v : Keyboard) : (s.setKbd v).cycles = s.cycles := rfl
@[simp] theorem setKbd_run (s : State) (v : Keyboard) : (s.setKbd v).run = s.run := rfl
@[simp] theorem setKbd_intPending (s : State) (v : Keyboard) : (s.setKbd v).intPending = s.intPending := rfl
@[simp] theorem setKbd_noIntCheck (s : State) (v : Keyboard) : (s.setKbd v).noIntCheck = s.noIntCheck := rfl
@[simp] theorem setKbd_events (s : State) (v : Keyboard) : (s.setKbd v).events = s.events := rfl
@[simp] theorem setKbd_cartBank (s : State) (v : Keyboard) : (s.setKbd v).cartBank = s.cartBank := rfl
@[simp] theorem setKbd_io (s : State) (v : Keyboard) : (s.setKbd v).io = s.io := rfl
@[simp] theorem setKbd_kbd (s : State) (v : Keyboard) : (s.setKbd v).kbd = v := rfl
@[simp] theorem setKbd_mapper (s : State) (v : Keyboard) : (s.setKbd v).mapper = s.mapper := rfl
@[simp] theorem setKbd_tags (s : State) (v : Keyboard) : (s.setKbd v).tags = s.tags := rfl
@[simp] theorem setKbd_pool (s : State) (v : Keyboard) : (s.setKbd v).pool = s.pool := rfl
@[simp] theorem setKbd_scratch (s : State) (v : Keyboard) : (s.setKbd v).scratch = s.scratch := rfl
@[simp] theorem setKbd_sched (s : State) (v : Keyboard) : (s.setKbd v).sched = s.sched := rfl
@[simp] theorem setKbd_xChain (s : State) (v : Keyboard) : (s.setKbd v).xChain = s.xChain := rfl
@[simp] theorem setKbd_draws (s : State) (v : Keyboard) : (s.setKbd v).draws = s.draws := rfl
@[simp] theorem setKbd_devInputs (s : State) (v : Keyboard) : (s.setKbd v).devInputs = s.devInputs := rfl
@[simp] theorem setKbd_cruInputs (s : State) (v : Keyboard) : (s.setKbd v).cruInputs = s.cruInputs := rfl

@[simp] theorem setMapper_md (s : State) (v : Mapper) : (s.setMapper v).md = s.md := rfl
@[simp] theorem setMapper_pc (s : State) (v : Mapper) : (s.setMapper v).pc = s.pc := rfl
@[simp] theorem setMapper_wp (s : State) (v : Mapper) : (s.setMapper v).wp = s.wp := rfl
@[simp] theorem setMapper_st (s : State) (v : Mapper) : (s.setMapper v).st = s.st := rfl
@[simp] theorem setMapper_instPc (s : State) (v : Mapper) : (s.setMapper v).instPc = s.instPc := rfl
@[simp] theorem setMapper_cycles (s : State) (v : Mapper) : (s.setMapper v).cycles = s.cycles := rfl
@[simp] theorem setMapper_run (s : State) (v : Mapper) : (s.setMapper v).run = s.run := rfl
@[simp] theorem setMapper_intPending (s : State) (v : Mapper) : (s.setMapper v).intPending = s.intPending := rfl
@[simp] theorem setMapper_noIntCheck (s : State) (v : Mapper) : (s.setMapper v).noIntCheck = s.noIntCheck := rfl
@[simp] theorem setMapper_events (s : State) (v : Mapper) : (s.setMapper v).events = s.events := rfl
@[simp] theorem setMapper_cartBank (s : State) (v : Mapper) : (s.setMapper v).cartBank = s.cartBank := rfl
@[simp] theorem setMapper_io (s : State) (v : Mapper) : (s.setMapper v).io = s.io := rfl
@[simp] theorem setMapper_kbd (s : State) (v : Mapper) : (s.setMapper v).kbd = s.kbd := rfl
@[simp] theorem setMapper_mapper (s : State) (v : Mapper) : (s.setMapper v).mapper = v := rfl
@[simp] theorem setMapper_tags (s : State) (v : Mapper) : (s.setMapper v).tags = s.tags := rfl
@[simp] theorem setMapper_pool (s : State) (v : Mapper) : (s.setMapper v).pool = s.pool := rfl
@[simp] theorem setMapper_scratch (s : State) (v : Mapper) : (s.setMapper v).scratch = s.scratch := rfl
@[simp] theorem setMapper_sched (s : State) (v : Mapper) : (s.setMapper v).sched = s.sched := rfl
@[simp] theorem setMapper_xChain (s : State) (v : Mapper) : (s.setMapper v).xChain = s.xChain := rfl
@[simp] theorem setMapper_draws (s : State) (v : Mapper) : (s.setMapper v).draws = s.draws := rfl
@[simp] theorem setMapper_devInputs (s : State) (v : Mapper) : (s.setMapper v).devInputs = s.devInputs := rfl
@[simp] theorem setMapper_cruInputs (s : State) (v : Mapper) : (s.setMapper v).cruInputs = s.cruInputs := rfl

@[simp] theorem setTags_md (s : State) (v : List (Nat × RegionTag)) : (s.setTags v).md = s.md := rfl
@[simp] theorem setTags_pc (s : State) (v : List (Nat × RegionTag)) : (s.setTags v).pc = s.pc := rfl
@[simp] theorem setTags_wp (s : State) (v : List (Nat × RegionTag)) : (s.setTags v).wp = s.wp := rfl
@[simp] theorem setTags_st (s : State) (v : List (Nat × RegionTag)) : (s.setTags v).st = s.st := rfl
@[simp] theorem setTags_instPc (s : State) (v : List (Nat × RegionTag)) : (s.setTags v).instPc = s.instPc := rfl
@[simp] theorem setTags_cycles (s : State) (v : List (Nat × RegionTag)) : (s.setTags v).cycles = s.cycles := rfl
@[simp] theorem setTags_run (s : State) (v : List (Nat × RegionTag)) : (s.setTags v).run = s.run := rfl
@[simp] theorem setTags_intPending (s : State) (v : List (Nat × RegionTag)) : (s.setTags v).intPending = s.intPending := rfl
@[simp] theorem setTags_noIntCheck (s : State) (v : List (Nat × RegionTag)) : (s.setTags v).noIntCheck = s.noIntCheck := rfl
@[simp] theorem setTags_events (s : State) (v : List (Nat × RegionTag)) : (s.setTags v).events = s.events := rfl
@[simp] theorem setTags_cartBank (s : State) (v : List (Nat × RegionTag)) : (s.setTags v).cartBank = s.cartBank := rfl
@[simp] theorem setTags_io (s : State) (v : List (Nat × RegionTag)) : (s.setTags v).io = s.io := rfl
@[simp] theorem setTags_kbd (s : State) (v : List (Nat × RegionTag)) : (s.setTags v).kbd = s.kbd := rfl
@[simp] theorem setTags_mapper (s : State) (v : List (Nat × RegionTag)) : (s.setTags v).mapper = s.mapper := rfl
@[simp] theorem setTags_tags (s : State) (v : List (Nat × RegionTag)) : (s.setTags v).tags = v := rfl
@[simp] theorem setTags_pool (s : State) (v : List (Nat × RegionTag)) : (s.setTags v).pool = s.pool := rfl
@[simp] theorem setTags_scratch (s : State) (v : List (Nat × RegionTag)) : (s.setTags v).scratch = s.scratch := rfl
@[simp] theorem setTags_sched (s : State) (v : List (Nat × RegionTag)) : (s.setTags v).sched = s.sched := rfl
@[simp] theorem setTags_xChain (s : State) (v : List (Nat × RegionTag)) : (s.setTags v).xChain = s.xChain := rfl
@[simp] theorem setTags_draws (s : State) (v : List (Nat × RegionTag)) : (s.setTags v).draws = s.draws := rfl
@[simp] theorem setTags_devInputs (s : State) (v : List (Nat × RegionTag)) : (s.setTags v).devInputs = s.devInputs := rfl
@[simp] theorem setTags_cruInputs (s : State) (v : List (Nat × RegionTag)) : (s.setTags v).cruInputs = s.cruInputs := rfl

@[simp] theorem setPool_md (s : State) (v : Memory) : (s.setPool v).md = s.md := rfl
@[simp] theorem setPool_pc (s : State) (v : Memory) : (s.setPool v).pc = s.pc := rfl
@[simp] theorem setPool_wp (s : State) (v : Memory) : (s.setPool v).wp = s.wp := rfl
@[simp] theorem setPool_st (s : State) (v : Memory) : (s.setPool v).st = s.st := rfl
@[simp] theorem setPool_instPc (s : State) (v : Memory) : (s.setPool v).instPc = s.instPc := rfl
@[simp] theorem setPool_cycles (s : State) (v : Memory) : (s.setPool v).cycles = s.cycles := rfl
@[simp] theorem setPool_run (s : State) (v : Memory) : (s.setPool v).run = s.run := rfl
@[simp] theorem setPool_intPending (s : State) (v : Memory) : (s.setPool v).intPending = s.intPending := rfl
@[simp] theorem setPool_noIntCheck (s : State) (v : Memory) : (s.setPool v).noIntCheck = s.noIntCheck := rfl
@[simp] theorem setPool_events (s : State) (v : Memory) : (s.setPool v).events = s.events := rfl
@[simp] theorem setPool_cartBank (s : State) (v : Memory) : (s.setPool v).cartBank = s.cartBank := rfl
@[simp] theorem setPool_io (s : State) (v : Memory) : (s.setPool v).io = s.io := rfl
@[simp] theorem setPool_kbd (s : State) (v : Memory) : (s.setPool v).kbd = s.kbd := rfl
@[simp] theorem setPool_mapper (s : State) (v : Memory) : (s.setPool v).mapper = s.mapper := rfl
@[simp] theorem setPool_tags (s : State) (v : Memory) : (s.setPool v).tags = s.tags := rfl
@[simp] theorem setPool_pool (s : State) (v : Memory) : (s.setPool v).pool = v := rfl
@[simp] theorem setPool_scratch (s : State) (v : Memory) : (s.setPool v).scratch = s.scratch := rfl
@[simp] theorem setPool_sched (s : State) (v : Memory) : (s.setPool v).sched = s.sched := rfl
@[simp] theorem setPool_xChain (s : State) (v : Memory) : (s.setPool v).xChain = s.xChain := rfl
@[simp] theorem setPool_draws (s : State) (v : Memory) : (s.setPool v).draws = s.draws := rfl
@[simp] theorem setPool_devInputs (s : State) (v : Memory) : (s.setPool v).devInputs = s.devInputs := rfl
@[simp] theorem setPool_cruInputs (s : State) (v : Memory) : (s.setPool v).cruInputs = s.cruInputs := rfl

@[simp] theorem setScratch_md (s : State) (v : Memory) : (s.setScratch v).md = s.md := rfl
@[simp] theorem setScratch_pc (s : State) (v : Memory) : (s.setScratch v).pc = s.pc := rfl
@[simp] theorem setScratch_wp (s : State) (v : Memory) : (s.setScratch v).wp = s.wp := rfl
@[simp] theorem setScratch_st (s : State) (v : Memory) : (s.setScratch v).st = s.st := rfl
@[simp] theorem setScratch_instPc (s : State) (v : Memory) : (s.setScratch v).instPc = s.instPc := rfl
@[simp] theorem setScratch_cycles (s : State) (v : Memory) : (s.setScratch v).cycles = s.cycles := rfl
@[simp] theorem setScratch_run (s : State) (v : Memory) : (s.setScratch v).run = s.run := rfl
@[simp] theorem setScratch_intPending (s : State) (v : Memory) : (s.setScratch v).intPending = s.intPending := rfl
@[simp] theorem setScratch_noIntCheck (s : State) (v : Memory) : (s.setScratch v).noIntCheck = s.noIntCheck := rfl
@[simp] theorem setScratch_events (s : State) (v : Memory) : (s.setScratch v).events = s.events := rfl
@[simp] theorem setScratch_cartBank (s : State) (v : Memory) : (s.setScratch v).cartBank = s.cartBank := rfl
@[simp] theorem setScratch_io (s : State) (v : Memory) : (s.setScratch v).io = s.io := rfl
@[simp] theorem setScratch_kbd (s : State) (v : Memory) : (s.setScratch v).kbd = s.kbd := rfl
@[simp] theorem setScratch_mapper (s : State) (v : Memory) : (s.setScratch v).mapper = s.mapper := rfl
@[simp] theorem setScratch_tags (s : State) (v : Memory) : (s.setScratch v).tags = s.tags := rfl
@[simp] theorem setScratch_pool (s : State) (v : Memory) : (s.setScratch v).pool = s.pool := rfl
@[simp] theorem setScratch_scratch (s : State) (v : Memory) : (s.setScratch v).scratch = v := rfl
@[simp] theorem setScratch_sched (s : State) (v : Memory) : (s.setScratch v).sched = s.sched := rfl
@[simp] theorem setScratch_xChain (s : State) (v : Memory) : (s.setScratch v).xChain = s.xChain := rfl
@[simp] theorem setScratch_draws (s : State) (v : Memory) : (s.setScratch v).draws = s.draws := rfl
@[simp] theorem setScratch_devInputs (s : State) (v : Memory) : (s.setScratch v).devInputs = s.devInputs := rfl
@[simp] theorem setScratch_cruInputs (s : State) (v : Memory) : (s.setScratch v).cruInputs = s.cruInputs := rfl

@[simp] theorem setSched_md (s : State) (v : Scheduler) : (s.setSched v).md = s.md := rfl
@[simp] theorem setSched_pc (s : State) (v : Scheduler) : (s.setSched v).pc = s.pc := rfl
@[simp] theorem setSched_wp (s : State) (v : Scheduler) : (s.setSched v).wp = s.wp := rfl
@[simp] theorem setSched_st (s : State) (v : Scheduler) : (s.setSched v).st = s.st := rfl
@[simp] theorem setSched_instPc (s : State) (v : Scheduler) : (s.setSched v).instPc = s.instPc := rfl
@[simp] theorem setSched_cycles (s : State) (v : Scheduler) : (s.setSched v).cycles = s.cycles := rfl
@[simp] theorem setSched_run (s : State) (v : Scheduler) : (s.setSched v).run = s.run := rfl
@[simp] theorem setSched_intPending (s : State) (v : Scheduler) : (s.setSched v).intPending = s.intPending := rfl
@[simp] theorem setSched_noIntCheck (s : State) (v : Scheduler) : (s.setSched v).noIntCheck = s.noIntCheck := rfl
@[simp] theorem setSched_events (s : State) (v : Scheduler) : (s.setSched v).events = s.events := rfl
@[simp] theorem setSched_cartBank (s : State) (v : Scheduler) : (s.setSched v).cartBank = s.cartBank := rfl
@[simp] theorem setSched_io (s : State) (v : Scheduler) : (s.setSched v).io = s.io := rfl
@[simp] theorem setSched_kbd (s : State) (v : Scheduler) : (s.setSched v).kbd = s.kbd := rfl
@[simp] theorem setSched_mapper (s : State) (v : Scheduler) : (s.setSched v).mapper = s.mapper := rfl
@[simp] theorem setSched_tags (s : State) (v : Scheduler) : (s.setSched v).tags = s.tags := rfl
@[simp] theorem setSched_pool (s : State) (v : Scheduler) : (s.setSched v).pool = s.pool := rfl
@[simp] theorem setSched_scratch (s : State) (v : Scheduler) : (s.setSched v).scratch = s.scratch := rfl
@[simp] theorem setSched_sched (s : State) (v : Scheduler) : (s.setSched v).sched = v := rfl
@[simp] theorem setSched_xChain (s : State) (v : Scheduler) : (s.setSched v).xChain = s.xChain := rfl
@[simp] theorem setSched_draws (s : State) (v : Scheduler) : (s.setSched v).draws = s.draws := rfl
@[simp] theorem setSched_devInputs (s : State) (v : Scheduler) : (s.setSched v).devInputs = s.devInputs := rfl
@[simp] theorem setSched_cruInputs (s : State) (v : Scheduler) : (s.setSched v).cruInputs = s.cruInputs := rfl

@[simp] theorem setXChain_md (s : State) (v : Option XChain) : (s.setXChain v).md = s.md := rfl
@[simp] theorem setXChain_pc (s : State) (v : Option XChain) : (s.setXChain v).pc = s.pc := rfl
@[simp] theorem setXChain_wp (s : State) (v : Option XChain) : (s.setXChain v).wp = s.wp := rfl
@[simp] theorem setXChain_st (s : State) (v : Option XChain) : (s.setXChain v).st = s.st := rfl
@[simp] theorem setXChain_instPc (s : State) (v : Option XChain) : (s.setXChain v).instPc = s.instPc := rfl
@[simp] theorem setXChain_cycles (s : State) (v : Option XChain) : (s.setXChain v).cycles = s.cycles := rfl
@[simp] theorem setXChain_run (s : State) (v : Option XChain) : (s.setXChain v).run = s.run := rfl
@[simp] theorem setXChain_intPending (s : State) (v : Option XChain) : (s.setXChain v).intPending = s.intPending := rfl
@[simp] theorem setXChain_noIntCheck (s : State) (v : Option XChain) : (s.setXChain v).noIntCheck = s.noIntCheck := rfl
@[simp] theorem setXChain_events (s : State) (v : Option XChain) : (s.setXChain v).events = s.events := rfl
@[simp] theorem setXChain_cartBank (s : State) (v : Option XChain) : (s.setXChain v).cartBank = s.cartBank := rfl
@[simp] theorem setXChain_io (s : State) (v : Option XChain) : (s.setXChain v).io = s.io := rfl
@[simp] theorem setXChain_kbd (s : State) (v : Option XChain) : (s.setXChain v).kbd = s.kbd := rfl
@[simp] theorem setXChain_mapper (s : State) (v : Option XChain) : (s.setXChain v).mapper = s.mapper := rfl
@[simp] theorem setXChain_tags (s : State) (v : Option XChain) : (s.setXChain v).tags = s.tags := rfl
@[simp] theorem setXChain_pool (s : State) (v : Option XChain) : (s.setXChain v).pool = s.pool := rfl
@[simp] theorem setXChain_scratch (s : State) (v : Option XChain) : (s.setXChain v).scratch = s.scratch := rfl
@[simp] theorem setXChain_sched (s : State) (v : Option XChain) : (s.setXChain v).sched = s.sched := rfl
@[simp] theorem setXChain_xChain (s : State) (v : Option XChain) : (s.setXChain v).xChain = v := rfl
@[simp] theorem setXChain_draws (s : State) (v : Option XChain) : (s.setXChain v).draws = s.draws := rfl
@[simp] theorem setXChain_devInputs (s : State) (v : Option XChain) : (s.setXChain v).devInputs = s.devInputs := rfl
@[simp] theorem setXChain_cruInputs (s : State) (v : Option XChain) : (s.setXChain v).cruInputs = s.cruInputs := rfl

@[simp] theorem nextDraw_md (s : State) : (s.nextDraw).md = s.md := rfl
@[simp] theorem nextDraw_pc (s : State) : (s.nextDraw).pc = s.pc := rfl
@[simp] theorem nextDraw_wp (s : State) : (s.nextDraw).wp = s.wp := rfl
@[simp] theorem nextDraw_st (s : State) : (s.nextDraw).st = s.st := rfl
@[simp] theorem nextDraw_instPc (s : State) : (s.nextDraw).instPc = s.instPc := rfl
@[simp] theorem nextDraw_cycles (s : State) : (s.nextDraw).cycles = s.cycles := rfl
@[simp] theorem nextDraw_run (s : State) : (s.nextDraw).run = s.run := rfl
@[simp] theorem nextDraw_intPending (s : State) : (s.nextDraw).intPending = s.intPending := rfl
@[simp] theorem nextDraw_noIntCheck (s : State) : (s.nextDraw).noIntCheck = s.noIntCheck := rfl
@[simp] theorem nextDraw_events (s : State) : (s.nextDraw).events = s.events := rfl
@[simp] theorem nextDraw_cartBank (s : State) : (s.nextDraw).cartBank = s.cartBank := rfl
@[simp] theorem nextDraw_io (s : State) : (s.nextDraw).io = s.io := rfl
@[simp] theorem nextDraw_kbd (s : State) : (s.nextDraw).kbd = s.kbd := rfl
@[simp] theorem nextDraw_mapper (s : State) : (s.nextDraw).mapper = s.mapper := rfl
@[simp] theorem nextDraw_tags (s : State) : (s.nextDraw).tags = s.tags := rfl
@[simp] theorem nextDraw_pool (s : State) : (s.nextDraw).pool = s.pool := rfl
@[simp] theorem nextDraw_scratch (s : State) : (s.nextDraw).scratch = s.scratch := rfl
@[simp] theorem nextDraw_sched (s : State) : (s.nextDraw).sched = s.sched := rfl
@[simp] theorem nextDraw_xChain (s : State) : (s.nextDraw).xChain = s.xChain := rfl
@[simp] theorem nextDraw_draws (s : State) : (s.nextDraw).draws = s.draws + 1 := rfl
@[simp] theorem nextDraw_devInputs (s : State) : (s.nextDraw).devInputs = s.devInputs := rfl
@[simp] theorem nextDraw_cruInputs (s : State) : (s.nextDraw).cruInputs = s.cruInputs := rfl

@[simp] theorem setDevInputs_md (s : State) (v : List DevReaction) : (s.setDevInputs v).md = s.md := rfl
@[simp] theorem setDevInputs_pc (s : State) (v : List DevReaction) : (s.setDevInputs v).pc = s.pc := rfl
@[simp] theorem setDevInputs_wp (s : State) (v : List DevReaction) : (s.setDevInputs v).wp = s.wp := rfl
@[simp] theorem setDevInputs_st (s : State) (v : List DevReaction) : (s.setDevInputs v).st = s.st := rfl
@[simp] theorem setDevInputs_instPc (s : State) (v : List DevReaction) : (s.setDevInputs v).instPc = s.instPc := rfl
@[simp] theorem setDevInputs_cycles (s : State) (v : List DevReaction) : (s.setDevInputs v).cycles = s.cycles := rfl
@[simp] theorem setDevInputs_run (s : State) (v : List DevReaction) : (s.setDevInputs v).run = s.run := rfl
@[simp] theorem setDevInputs_intPending (s : State) (v : List DevReaction) : (s.setDevInputs v).intPending = s.intPending := rfl
@[simp] theorem setDevInputs_noIntCheck (s : State) (v : List DevReaction) : (s.setDevInputs v).noIntCheck = s.noIntCheck := rfl
@[simp] theorem setDevInputs_events (s : State) (v : List DevReaction) : (s.setDevInputs v).events = s.events := rfl
@[simp] theorem setDevInputs_cartBank (s : State) (v : List DevReaction) : (s.setDevInputs v).cartBank = s.cartBank := rfl
@[simp] theorem setDevInputs_io (s : State) (v : List DevReaction) : (s.setDevInputs v).io = s.io := rfl
@[simp] theorem setDevInputs_kbd (s : State) (v : List DevReaction) : (s.setDevInputs v).kbd = s.kbd := rfl
@[simp] theorem setDevInputs_mapper (s : State) (v : List DevReaction) : (s.setDevInputs v).mapper = s.mapper := rfl
@[simp] theorem setDevInputs_tags (s : State) (v : List DevReaction) : (s.setDevInputs v).tags = s.tags := rfl
@[simp] theorem setDevInputs_pool (s : State) (v : List DevReaction) : (s.setDevInputs v).pool = s.pool := rfl
@[simp] theorem setDevInputs_scratch (s : State) (v : List DevReaction) : (s.setDevInputs v).scratch = s.scratch := rfl
@[simp] theorem setDevInputs_sched (s : State) (v : List DevReaction) : (s.setDevInputs v).sched = s.sched := rfl
@[simp] theorem setDevInputs_xChain (s : State) (v : List DevReaction) : (s.setDevInputs v).xChain = s.xChain := rfl
@[simp] theorem setDevInputs_draws (s : State) (v : List DevReaction) : (s.setDevInputs v).draws = s.draws := rfl
@[simp] theorem setDevInputs_devInputs (s : State) (v : List DevReaction) : (s.setDevInputs v).devInputs = v := rfl
@[simp] theorem setDevInputs_cruInputs (s : State) (v : List DevReaction) : (s.setDevInputs v).cruInputs = s.cruInputs := rfl

@[simp] theorem setCruInputs_md (s : State) (v : List EnableReaction) : (s.setCruInputs v).md = s.md := rfl
@[simp] theorem setCruInputs_pc (s : State) (v : List EnableReaction) : (s.setCruInputs v).pc = s.pc := rfl
@[simp] theorem setCruInputs_wp (s : State) (v : List EnableReaction) : (s.setCruInputs v).wp = s.wp := rfl
@[simp] theorem setCruInputs_st (s : State) (v : List EnableReaction) : (s.setCruInputs v).st = s.st := rfl
@[simp] theorem setCruInputs_instPc (s : State) (v : List EnableReaction) : (s.setCruInputs v).instPc = s.instPc := rfl
@[simp] theorem setCruInputs_cycles (s : State) (v : List EnableReaction) : (s.setCruInputs v).cycles = s.cycles := rfl
@[simp] theorem setCruInputs_run (s : State) (v : List EnableReaction) : (s.setCruInputs v).run = s.run := rfl
@[simp] theorem setCruInputs_intPending (s : State) (v : List EnableReaction) : (s.setCruInputs v).intPending = s.intPending := rfl
@[simp] theorem setCruInputs_noIntCheck (s : State) (v : List EnableReaction) : (s.setCruInputs v).noIntCheck = s.noIntCheck := rfl
@[simp] theorem setCruInputs_events (s : State) (v : List EnableReaction) : (s.setCruInputs v).events = s.events := rfl
@[simp] theorem setCruInputs_cartBank (s : State) (v : List EnableReaction) : (s.setCruInputs v).cartBank = s.cartBank := rfl
@[simp] theorem setCruInputs_io (s : State) (v : List EnableReaction) : (s.setCruInputs v).io = s.io := rfl
@[simp] theorem setCruInputs_kbd (s : State) (v : List EnableReaction) : (s.setCruInputs v).kbd = s.kbd := rfl
@[simp] theorem setCruInputs_mapper (s : State) (v : List EnableReaction) : (s.setCruInputs v).mapper = s.mapper := rfl
@[simp] theorem setCruInputs_tags (s : State) (v : List EnableReaction) : (s.setCruInputs v).tags = s.tags := rfl
@[simp] theorem setCruInputs_pool (s : State) (v : List EnableReaction) : (s.setCruInputs v).pool = s.pool := rfl
@[simp] theorem setCruInputs_scratch (s : State) (v : List EnableReaction) : (s.setCruInputs v).scratch = s.scratch := rfl
@[simp] theorem setCruInputs_sched (s : State) (v : List EnableReaction) : (s.setCruInputs v).sched = s.sched := rfl
@[simp] theorem setCruInputs_xChain (s : State) (v : List EnableReaction) : (s.setCruInputs v).xChain = s.xChain := rfl
@[simp] theorem setCruInputs_draws (s : State) (v : List EnableReaction) : (s.setCruInputs v).draws = s.draws := rfl
@[simp] theorem setCruInputs_devInputs (s : State) (v : List EnableReaction) : (s.setCruInputs v).devInputs = s.devInputs := rfl
@[simp] theorem setCruInputs_cruInputs (s : State) (v : List EnableReaction) : (s.setCruInputs v).cruInputs = v := rfl

@[simp] theorem setMd_md (s : State) (v : Descriptor) : (s.setMd v).md = v := rfl
@[simp] theorem setMd_pc (s : State) (v : Descriptor) : (s.setMd v).pc = s.pc := rfl
@[simp] theorem setMd_wp (s : State) (v : Descriptor) : (s.setMd v).wp = s.wp := rfl
@[simp] theorem setMd_st (s : State) (v : Descriptor) : (s.setMd v).st = s.st := rfl
@[simp] theorem setMd_instPc (s : State) (v : Descriptor) : (s.setMd v).instPc = s.instPc := rfl
@[simp] theorem setMd_cycles (s : State) (v : Descriptor) : (s.setMd v).cycles = s.cycles := rfl
@[simp] theorem setMd_run (s : State) (v : Descriptor) : (s.setMd v).run = s.run := rfl
@[simp] theorem setMd_intPending (s : State) (v : Descriptor) : (s.setMd v).intPending = s.intPending := rfl
@[simp] theorem setMd_noIntCheck (s : State) (v : Descriptor) : (s.setMd v).noIntCheck = s.noIntCheck := rfl
@[simp] theorem setMd_events (s : State) (v : Descriptor) : (s.setMd v).events = s.events := rfl
@[simp] theorem setMd_cartBank (s : State) (v : Descriptor) : (s.setMd v).cartBank = s.cartBank := rfl
@[simp] theorem setMd_io (s : State) (v : Descriptor) : (s.setMd v).io = s.io := rfl
@[simp] theorem setMd_kbd (s : State) (v : Descriptor) : (s.setMd v).kbd = s.kbd := rfl
@[simp] theorem setMd_mapper (s : State) (v : Descriptor) : (s.setMd v).mapper = s.mapper := rfl
@[simp] theorem setMd_tags (s : State) (v : Descriptor) : (s.setMd v).tags = s.tags := rfl
@[simp] theorem setMd_pool (s : State) (v : Descriptor) : (s.setMd v).pool = s.pool := rfl
@[simp] theorem setMd_scratch (s : State) (v : Descriptor) : (s.setMd v).scratch = s.scratch := rfl
@[simp] theorem setMd_sched (s : State) (v : Descriptor) : (s.setMd v).sched = s.sched := rfl
@[simp] theorem setMd_xChain (s : State) (v : Descriptor) : (s.setMd v).xChain = s.xChain := rfl
@[simp] theorem setMd_draws (s : State) (v : Descriptor) : (s.setMd v).draws = s.draws := rfl
@[simp] theorem setMd_devInputs (s : State) (v : Descriptor) : (s.setMd v).devInputs = s.devInputs := rfl
@[simp] theorem setMd_cruInputs (s : State) (v : Descriptor) : (s.setMd v).cruInputs = s.cruInputs := rfl

end Sys2Proof.Machine
end

