-- ==== Sys2Proof/Laws/Bits.lean ====
section
/-! SUPPORT. What the bit helpers and the flag functions do, bit by bit. -/

namespace Sys2Proof.Machine

theorem setBit_getLsbD {w : Nat} (v : BitVec w) (i : Nat) (b : Bool) (j : Nat) :
    (setBit v i b).getLsbD j = if j = i ∧ j < w then b else v.getLsbD j := by
  by_cases hj : j < w
  · cases b <;> by_cases hji : j = i <;>
      simp [setBit, BitVec.getLsbD_or, BitVec.getLsbD_and, hj, hji] <;> grind
  · simp [hj, BitVec.getLsbD_of_ge _ _ (Nat.le_of_not_lt hj)]

theorem evenAddr_getLsbD (v : Word) (j : Nat) : (evenAddr v).getLsbD j = (v.getLsbD j && decide (j ≠ 0)) := by
  by_cases hj : j < 16
  · simp only [evenAddr, BitVec.getLsbD_and]
    have : ∀ k : Fin 16, BitVec.getLsbD (0xFFFE : Word) k.val = decide (k.val ≠ 0) := by decide
    rw [this ⟨j, hj⟩]
  · simp [BitVec.getLsbD_of_ge _ _ (Nat.le_of_not_lt hj)]

theorem evenAddr_bit0 (v : Word) : (evenAddr v).getLsbD 0 = false := by rw [evenAddr_getLsbD]; exact Bool.and_false _

theorem evenAddr_of_even {v : Word} (h : v.getLsbD 0 = false) : evenAddr v = v := by
  apply BitVec.eq_of_getLsbD_eq
  intro i hi
  rw [evenAddr_getLsbD]
  by_cases h0 : i = 0
  · subst h0; rw [h]; rfl
  · simp [h0]

@[simp] theorem evenAddr_idem (v : Word) : evenAddr (evenAddr v) = evenAddr v := evenAddr_of_even (evenAddr_bit0 v)

theorem even_iff (v : Word) : v.getLsbD 0 = false ↔ v.toNat % 2 = 0 := by
  simp [BitVec.getLsbD, Nat.testBit_zero]

theorem evenAddr_toNat (v : Word) : (evenAddr v).toNat = v.toNat - v.toNat % 2 := by
  have he : evenAddr v = (v >>> 1) <<< 1 := by
    apply BitVec.eq_of_getLsbD_eq
    intro i hi
    rw [evenAddr_getLsbD, BitVec.getLsbD_shiftLeft, BitVec.getLsbD_ushiftRight]
    by_cases h0 : i = 0
    · subst h0; simp
    · simp [h0, hi, show ¬ i < 1 by omega, show 1 + (i - 1) = i by omega]
  rw [he]
  simp [Nat.shiftRight_eq_div_pow, Nat.shiftLeft_eq]
  omega

theorem even_add_two {v : Word} (h : v.getLsbD 0 = false) : (v + 2).getLsbD 0 = false := by
  rw [even_iff] at *
  simp [BitVec.toNat_add]
  omega

theorem evenAddr_add_two {v : Word} (h : v.getLsbD 0 = false) : evenAddr (v + 2) = v + 2 :=
  evenAddr_of_even (even_add_two h)

theorem hiByte_joinBytes (hi lo : Byte) : hiByte (joinBytes hi lo) = hi := by
  apply BitVec.eq_of_getLsbD_eq
  intro i hi'
  rw [hiByte, joinBytes, BitVec.getLsbD_extractLsb', BitVec.getLsbD_append]
  simp only [hi', show ¬ 8 + i < 8 by omega, show 8 + i - 8 = i by omega]
  simp

theorem loByte_joinBytes (hi lo : Byte) : loByte (joinBytes hi lo) = lo := by
  apply BitVec.eq_of_getLsbD_eq
  intro i hi'
  rw [loByte, joinBytes, BitVec.getLsbD_extractLsb', BitVec.getLsbD_append]
  simp only [hi', Nat.zero_add]
  simp

theorem joinBytes_hi_lo (v : Word) : joinBytes (hiByte v) (loByte v) = v := by
  apply BitVec.eq_of_getLsbD_eq
  intro i hi
  simp only [joinBytes, hiByte, loByte, BitVec.getLsbD_append, BitVec.getLsbD_extractLsb']
  by_cases h : i < 8
  · simp [h]
  · simp [h, show i - 8 < 8 by omega, show 8 + (i - 8) = i by omega]

/-! ## The reserved bits of ST (10_state.md R54) -/

theorem reserved_iff (v : Word) : v &&& 0x01F0 = 0 ↔ ∀ j, 4 ≤ j → j ≤ 8 → v.getLsbD j = false := by
  have m : ∀ k : Fin 16, BitVec.getLsbD (0x01F0 : Word) k.val = (decide (4 ≤ k.val) && decide (k.val ≤ 8)) := by decide
  constructor
  · intro h j h4 h8
    have hj := congrArg (fun x : Word => x.getLsbD j) h
    simp only [BitVec.getLsbD_and] at hj
    rw [m ⟨j, by omega⟩] at hj
    simpa [h4, h8] using hj
  · intro h
    apply BitVec.eq_of_getLsbD_eq
    intro i hi
    simp only [BitVec.getLsbD_and]
    rw [m ⟨i, hi⟩]
    by_cases h4 : 4 ≤ i <;> by_cases h8 : i ≤ 8 <;> simp [h4, h8]
    exact h i h4 h8

theorem reserved_setBit {v : Word} {i : Nat} {b : Bool} (hv : v &&& 0x01F0 = 0) (hi : i < 4 ∨ 8 < i) :
    setBit v i b &&& 0x01F0 = 0 := by
  rw [reserved_iff] at *
  intro j h4 h8
  rw [setBit_getLsbD, if_neg (by omega)]
  exact hv j h4 h8

theorem reserved_setCompare {st : Word} {l g e : Bool} (h : st &&& 0x01F0 = 0) : setCompare st l g e &&& 0x01F0 = 0 :=
  reserved_setBit (reserved_setBit (reserved_setBit h (by decide)) (by decide)) (by decide)

theorem reserved_lae {w : Nat} {v : BitVec w} {st : Word} (h : st &&& 0x01F0 = 0) : lae v st &&& 0x01F0 = 0 :=
  reserved_setCompare h

theorem reserved_addFlags {w : Nat} {d s : BitVec w} {st : Word} (h : st &&& 0x01F0 = 0) :
    addFlags d s st &&& 0x01F0 = 0 :=
  reserved_lae (reserved_setBit (reserved_setBit h (by decide)) (by decide))

theorem reserved_subFlags {w : Nat} {d s : BitVec w} {st : Word} (h : st &&& 0x01F0 = 0) :
    subFlags d s st &&& 0x01F0 = 0 :=
  reserved_lae (reserved_setBit (reserved_setBit h (by decide)) (by decide))

theorem reserved_cmpFlags {w : Nat} {d s : BitVec w} {st : Word} (h : st &&& 0x01F0 = 0) :
    cmpFlags d s st &&& 0x01F0 = 0 :=
  reserved_setCompare h

theorem reserved_opFlag {b : Byte} {st : Word} (h : st &&& 0x01F0 = 0) : opFlag b st &&& 0x01F0 = 0 :=
  reserved_setBit h (by decide)

theorem reserved_eqFlag {b : Bool} {st : Word} (h : st &&& 0x01F0 = 0) : eqFlag b st &&& 0x01F0 = 0 :=
  reserved_setBit h (by decide)

theorem setIntMask_getLsbD (st : Word) (im : BitVec 4) (j : Nat) :
    (setIntMask st im).getLsbD j = if j < 4 then im.getLsbD j else st.getLsbD j := by
  by_cases hj : j < 16
  · have m : ∀ k : Fin 16, BitVec.getLsbD (0xFFF0 : Word) k.val = decide (4 ≤ k.val) := by decide
    simp only [setIntMask, BitVec.getLsbD_or, BitVec.getLsbD_and]
    rw [m ⟨j, hj⟩]
    by_cases h4 : j < 4
    · simp [h4, hj]
    · simp [h4, hj, show 4 ≤ j by omega]
  · simp [BitVec.getLsbD_of_ge _ _ (Nat.le_of_not_lt hj), show ¬ j < 4 by omega]

theorem reserved_setIntMask {st : Word} {im : BitVec 4} (h : st &&& 0x01F0 = 0) : setIntMask st im &&& 0x01F0 = 0 := by
  rw [reserved_iff] at *
  intro j h4 h8
  rw [setIntMask_getLsbD, if_neg (by omega)]
  exact h j h4 h8

theorem reserved_stMask (v : Word) : (v &&& stMask) &&& 0x01F0 = 0 := by
  rw [BitVec.and_assoc]
  have : stMask &&& 0x01F0 = 0 := by decide
  rw [this]; simp

theorem stMask_of_reserved {v : Word} (h : v &&& 0x01F0 = 0) : v &&& stMask = v := by
  rw [reserved_iff] at h
  have m : ∀ k : Fin 16, stMask.getLsbD k.val = !(decide (4 ≤ k.val) && decide (k.val ≤ 8)) := by decide
  apply BitVec.eq_of_getLsbD_eq
  intro i hi
  rw [BitVec.getLsbD_and, m ⟨i, hi⟩]
  by_cases h4 : 4 ≤ i <;> by_cases h8 : i ≤ 8 <;> simp [h4, h8]
  exact h i h4 h8

/-! ## The flags, bit by bit -/

theorem setCompare_getLsbD (st : Word) (l g e : Bool) (j : Nat) :
    (setCompare st l g e).getLsbD j =
      if j = 15 then l else if j = 14 then g else if j = 13 then e else st.getLsbD j := by
  simp only [setCompare, setBit_getLsbD, bitLgt, bitAgt, bitEq]
  grind

theorem lae_getLsbD {w : Nat} (v : BitVec w) (st : Word) (j : Nat) :
    (lae v st).getLsbD j =
      if j = 15 then v != 0#w else if j = 14 then (!v.msb && v != 0#w) else if j = 13 then v == 0#w else st.getLsbD j :=
  setCompare_getLsbD ..

theorem cmpFlags_getLsbD {w : Nat} (s d : BitVec w) (st : Word) (j : Nat) :
    (cmpFlags s d st).getLsbD j =
      if j = 15 then decide (d.toNat < s.toNat) else if j = 14 then decide (d.toInt < s.toInt)
      else if j = 13 then s == d else st.getLsbD j :=
  setCompare_getLsbD ..

theorem addFlags_getLsbD {w : Nat} (d s : BitVec w) (st : Word) (j : Nat) :
    (addFlags d s st).getLsbD j =
      if j = 15 then (d + s) != 0#w else if j = 14 then (!(d + s).msb && (d + s) != 0#w)
      else if j = 13 then (d + s) == 0#w else if j = 12 then decide (2 ^ w ≤ d.toNat + s.toNat)
      else if j = 11 then (d.msb == s.msb && (d + s).msb != d.msb) else st.getLsbD j := by
  simp only [addFlags, lae_getLsbD, setBit_getLsbD, bitC, bitOv]
  grind

theorem subFlags_getLsbD {w : Nat} (d s : BitVec w) (st : Word) (j : Nat) :
    (subFlags d s st).getLsbD j =
      if j = 15 then (d - s) != 0#w else if j = 14 then (!(d - s).msb && (d - s) != 0#w)
      else if j = 13 then (d - s) == 0#w else if j = 12 then decide (s.toNat ≤ d.toNat)
      else if j = 11 then (d.msb != s.msb && (d - s).msb != d.msb) else st.getLsbD j := by
  simp only [subFlags, lae_getLsbD, setBit_getLsbD, bitC, bitOv]
  grind

theorem opFlag_getLsbD (b : Byte) (st : Word) (j : Nat) :
    (opFlag b st).getLsbD j = if j = 10 then parity b else st.getLsbD j := by
  simp only [opFlag, setBit_getLsbD, bitOp]; grind

theorem eqFlag_getLsbD (b : Bool) (st : Word) (j : Nat) :
    (eqFlag b st).getLsbD j = if j = 13 then b else st.getLsbD j := by
  simp only [eqFlag, setBit_getLsbD, bitEq]; grind

end Sys2Proof.Machine
end

