-- ==== Sys2Proof/Laws/Memory.lean ====
section
/-! SUPPORT. The sparse tables: a read after a write, the canonical form kept, equal contents are equal tables. -/

namespace Sys2Proof.Machine

variable {α : Type} {base : Nat → α}

theorem sparseWf_nil : sparseWf base ([] : List (Nat × α)) := by simp [sparseWf]

theorem sparseWf_cons {j : Nat} {u : α} {t : List (Nat × α)} :
    sparseWf base ((j, u) :: t) ↔ (∀ p ∈ t, j < p.1) ∧ u ≠ base j ∧ sparseWf base t := by
  simp only [sparseWf, List.pairwise_cons, List.mem_cons, forall_eq_or_imp]
  grind

/-- A key below every listed key holds its base value. -/
theorem sparseGet_below {t : List (Nat × α)} {k : Nat} (h : ∀ p ∈ t, k < p.1) : sparseGet base t k = base k := by
  induction t with
  | nil => rfl
  | cons p t ih =>
    obtain ⟨j, u⟩ := p
    have hj := h (j, u) (by simp)
    rw [sparseGet, if_neg (by simp at hj; omega)]
    exact ih (fun q hq => h q (by simp [hq]))

/-- A key that is in no entry holds its base value. -/
theorem sparseGet_absent {t : List (Nat × α)} {k : Nat} (h : ∀ p ∈ t, p.1 ≠ k) : sparseGet base t k = base k := by
  induction t with
  | nil => rfl
  | cons p t ih =>
    obtain ⟨j, u⟩ := p
    rw [sparseGet, if_neg (h (j, u) (by simp))]
    exact ih (fun q hq => h q (by simp [hq]))

theorem sparseGet_mem {t : List (Nat × α)} {p : Nat × α} (h : sparseWf base t) (hp : p ∈ t) :
    sparseGet base t p.1 = p.2 := by
  induction t with
  | nil => simp at hp
  | cons q t ih =>
    obtain ⟨j, u⟩ := q
    rw [sparseWf_cons] at h
    rcases List.mem_cons.mp hp with rfl | hp
    · simp [sparseGet]
    · have := h.1 p hp
      rw [sparseGet, if_neg (by omega)]
      exact ih h.2.2 hp

/-- Canonical tables with equal contents are equal. -/
theorem sparse_ext {t u : List (Nat × α)} (ht : sparseWf base t) (hu : sparseWf base u)
    (h : ∀ k, sparseGet base t k = sparseGet base u k) : t = u := by
  induction t generalizing u with
  | nil =>
    cases u with
    | nil => rfl
    | cons q u =>
      obtain ⟨j, v⟩ := q
      have h1 := h j
      rw [sparseWf_cons] at hu
      simp only [sparseGet, if_true] at h1
      exact absurd h1.symm hu.2.1
  | cons p t ih =>
    obtain ⟨i, a⟩ := p
    cases u with
    | nil =>
      have h1 := h i
      rw [sparseWf_cons] at ht
      simp only [sparseGet, if_true] at h1
      exact absurd h1 ht.2.1
    | cons q u =>
      obtain ⟨j, b⟩ := q
      have hi := h i
      have hj := h j
      have ht' := ht
      have hu' := hu
      rw [sparseWf_cons] at ht hu
      obtain ⟨t1, t2, t3⟩ := ht
      obtain ⟨u1, u2, u3⟩ := hu
      have hij : i = j := by
        rcases Nat.lt_trichotomy i j with hlt | heq | hgt
        · exfalso
          rw [sparseGet, if_pos rfl] at hi
          rw [sparseGet_below (t := (j, b) :: u)] at hi
          · exact t2 hi
          · intro p hp
            rcases List.mem_cons.mp hp with rfl | hp
            · exact hlt
            · exact Nat.lt_trans hlt (u1 p hp)
        · exact heq
        · exfalso
          rw [sparseGet.eq_def base ((j, b) :: u)] at hj
          simp only [if_true] at hj
          rw [sparseGet_below (t := (i, a) :: t)] at hj
          · exact u2 hj.symm
          · intro p hp
            rcases List.mem_cons.mp hp with rfl | hp
            · exact hgt
            · exact Nat.lt_trans hgt (t1 p hp)
      subst hij
      simp only [sparseGet, if_true] at hi
      subst hi
      congr 1
      apply ih t3 u3
      intro k
      by_cases hk : i = k
      · subst hk
        rw [sparseGet_below t1, sparseGet_below u1]
      · have := h k
        rwa [sparseGet, sparseGet, if_neg hk, if_neg hk] at this

variable [DecidableEq α]

/-- Writing lists no key but the one written. -/
theorem mem_sparseSet {t : List (Nat × α)} {k : Nat} {v : α} {p : Nat × α} (h : p ∈ sparseSet base t k v) :
    p = (k, v) ∨ p ∈ t := by
  induction t with
  | nil => simp only [sparseSet] at h; split at h <;> simp_all
  | cons q t ih =>
    obtain ⟨j, u⟩ := q
    simp only [sparseSet] at h
    split at h
    · split at h <;> simp_all
    · split at h
      · split at h
        · exact .inr (List.mem_cons_of_mem _ h)
        · simp only [List.mem_cons] at h ⊢; tauto
      · simp only [List.mem_cons] at h ⊢
        rcases h with h | h
        · tauto
        · rcases ih h with h | h <;> tauto

/-- Every write keeps the canonical form. -/
theorem sparseSet_wf {t : List (Nat × α)} (k : Nat) (v : α) (h : sparseWf base t) : sparseWf base (sparseSet base t k v) := by
  induction t with
  | nil =>
    simp only [sparseSet]
    split
    · exact h
    · rw [sparseWf_cons]; exact ⟨by simp, by assumption, sparseWf_nil⟩
  | cons q t ih =>
    obtain ⟨j, u⟩ := q
    have h' := h
    rw [sparseWf_cons] at h
    obtain ⟨h1, h2, h3⟩ := h
    simp only [sparseSet]
    split
    · split
      · exact h'
      · rw [sparseWf_cons]
        refine ⟨?_, by assumption, h'⟩
        intro p hp
        rcases List.mem_cons.mp hp with rfl | hp
        · assumption
        · exact Nat.lt_trans (by assumption) (h1 p hp)
    · split
      · subst_vars
        split
        · exact h3
        · rw [sparseWf_cons]; exact ⟨h1, by assumption, h3⟩
      · rw [sparseWf_cons]
        refine ⟨?_, h2, ih h3⟩
        intro p hp
        rcases mem_sparseSet hp with rfl | hp
        · simp only; omega
        · exact h1 p hp

/-- A read after a write to the same key gives the value written. -/
theorem sparseGet_set_self {t : List (Nat × α)} (k : Nat) (v : α) (h : sparseWf base t) :
    sparseGet base (sparseSet base t k v) k = v := by
  induction t with
  | nil => simp only [sparseSet]; split <;> simp_all [sparseGet]
  | cons q t ih =>
    obtain ⟨j, u⟩ := q
    rw [sparseWf_cons] at h
    obtain ⟨h1, h2, h3⟩ := h
    simp only [sparseSet]
    split
    · split
      · rename_i hk hv
        rw [hv]
        apply sparseGet_below
        intro p hp
        rcases List.mem_cons.mp hp with rfl | hp
        · exact hk
        · exact Nat.lt_trans hk (h1 p hp)
      · simp [sparseGet]
    · split
      · rename_i hk
        subst hk
        split
        · rename_i hv; rw [hv]; exact sparseGet_below h1
        · simp [sparseGet]
      · rename_i hne
        rw [sparseGet, if_neg (fun e => hne e.symm)]
        exact ih h3

/-- A write leaves every other key alone. -/
theorem sparseGet_set_other {t : List (Nat × α)} {k m : Nat} (v : α) (hm : m ≠ k) :
    sparseGet base (sparseSet base t k v) m = sparseGet base t m := by
  induction t with
  | nil => simp only [sparseSet]; split <;> simp [sparseGet, hm.symm]
  | cons q t ih =>
    obtain ⟨j, u⟩ := q
    simp only [sparseSet]
    split
    · split
      · rfl
      · rw [sparseGet, if_neg hm.symm]
    · split
      · rename_i hk
        subst hk
        split
        · rw [sparseGet, if_neg hm.symm]
        · simp [sparseGet, hm.symm]
      · rw [sparseGet, sparseGet, ih]

theorem sparseGet_set {t : List (Nat × α)} (k m : Nat) (v : α) (h : sparseWf base t) :
    sparseGet base (sparseSet base t k v) m = if m = k then v else sparseGet base t m := by
  split
  · subst_vars; exact sparseGet_set_self _ _ h
  · exact sparseGet_set_other _ (by assumption)

/-! ## RAM -/

/-- `Memory.write` keeps the canonical form. -/
theorem Memory.wf_write {m : Memory} (k : Nat) (v : Byte) (h : m.wf) : (m.write k v).wf := sparseSet_wf k v h

theorem Memory.read_write_self {m : Memory} (k : Nat) (v : Byte) (h : m.wf) : (m.write k v).read k = v :=
  sparseGet_set_self k v h

theorem Memory.read_write_other {m : Memory} {k j : Nat} (v : Byte) (h : j ≠ k) : (m.write k v).read j = m.read j :=
  sparseGet_set_other v h

theorem Memory.mem_write {m : Memory} {k : Nat} {v : Byte} {p : Host.Cell} (h : p ∈ m.write k v) : p = (k, v) ∨ p ∈ m :=
  mem_sparseSet h

/-- No entry at or above a bound that the written key respects. -/
theorem Memory.bound_write {m : Memory} {k n : Nat} {v : Byte} (hk : k < n) (h : ∀ p ∈ m, p.1 < n) :
    ∀ p ∈ m.write k v, p.1 < n := by
  intro p hp
  rcases mem_write hp with rfl | hp
  · exact hk
  · exact h p hp

theorem Memory.mem_ofBytes {k : Nat} {l : List Byte} {p : Host.Cell} (h : p ∈ Memory.ofBytes k l) :
    k ≤ p.1 ∧ p.1 < k + l.length ∧ p.2 ≠ blankByte p.1 := by
  induction l generalizing k with
  | nil => simp [Memory.ofBytes] at h
  | cons b t ih =>
    simp only [Memory.ofBytes] at h
    split at h
    · have := ih h; exact ⟨by omega, by simp only [List.length_cons]; omega, this.2.2⟩
    · rcases List.mem_cons.mp h with rfl | h
      · simpa using by assumption
      · have := ih h; exact ⟨by omega, by simp only [List.length_cons]; omega, this.2.2⟩

/-- RAM made of bytes is in canonical form. -/
theorem Memory.wf_ofBytes (k : Nat) (l : List Byte) : (Memory.ofBytes k l).wf := by
  induction l generalizing k with
  | nil => exact sparseWf_nil
  | cons b t ih =>
    simp only [Memory.ofBytes]
    split
    · exact ih _
    · refine sparseWf_cons.mpr ⟨?_, by assumption, ih _⟩
      intro p hp
      have := Memory.mem_ofBytes hp
      omega

theorem Memory.read_ofBytes (k : Nat) (l : List Byte) (j : Nat) :
    (Memory.ofBytes k l).read j = if k ≤ j ∧ j < k + l.length then l.getD (j - k) 0 else 0 := by
  induction l generalizing k with
  | nil => simp [Memory.ofBytes, Memory.read, sparseGet, blankByte]
  | cons b t ih =>
    simp only [Memory.ofBytes]
    by_cases hj : j = k
    · subst hj
      split
      · rw [ih, if_neg (by omega), if_pos (by simp)]
        simpa [blankByte] using by symm; assumption
      · simp [Memory.read, sparseGet]
    · have hstep : (if k + 1 ≤ j ∧ j < k + 1 + t.length then t.getD (j - (k + 1)) 0 else 0)
          = (if k ≤ j ∧ j < k + (b :: t).length then (b :: t).getD (j - k) 0 else (0 : Byte)) := by
        simp only [List.length_cons]
        by_cases h : k + 1 ≤ j ∧ j < k + 1 + t.length
        · rw [if_pos h, if_pos (by omega)]
          obtain ⟨d, hd⟩ : ∃ d, j - k = d + 1 := ⟨j - k - 1, by omega⟩
          rw [hd, show j - (k + 1) = d by omega]; rfl
        · rw [if_neg h, if_neg (by omega)]
      split
      · rw [ih, hstep]
      · have : Memory.read ((k, b) :: Memory.ofBytes (k + 1) t) j = Memory.read (Memory.ofBytes (k + 1) t) j := by
          simp [Memory.read, sparseGet, Ne.symm hj]
        rw [this, ih, hstep]

theorem Memory.toBytes_length (m : Memory) (k n : Nat) : (m.toBytes k n).length = n := by
  induction n generalizing k with
  | zero => rfl
  | succ n ih => simp [Memory.toBytes, ih]

theorem Memory.toBytes_getD (m : Memory) (k n i : Nat) (h : i < n) : (m.toBytes k n).getD i 0 = m.read (k + i) := by
  induction n generalizing k i with
  | zero => omega
  | succ n ih =>
    cases i with
    | zero => simp [Memory.toBytes]
    | succ i =>
      simp only [Memory.toBytes, List.getD_cons_succ]
      rw [ih _ _ (by omega), show k + 1 + i = k + (i + 1) by omega]

/-- RAM is the bytes it holds. -/
theorem Memory.ofBytes_toBytes {m : Memory} {n : Nat} (h : m.wf) (hb : ∀ p ∈ m, p.1 < n) :
    Memory.ofBytes 0 (m.toBytes 0 n) = m := by
  apply sparse_ext (Memory.wf_ofBytes _ _) h
  intro k
  have := Memory.read_ofBytes 0 (m.toBytes 0 n) k
  rw [Memory.read] at this
  rw [this, Memory.toBytes_length]
  split
  · rw [Memory.toBytes_getD _ _ _ _ (by omega)]; simp [Memory.read]
  · symm
    have : ∀ p ∈ m, p.1 ≠ k := fun p hp => by have := hb p hp; omega
    rw [sparseGet_absent this]; rfl

/-- The memory after reset is in canonical form. -/
theorem reset_memory_wf : State.reset.pool.wf ∧ State.reset.scratch.wf := ⟨sparseWf_nil, sparseWf_nil⟩

end Sys2Proof.Machine
end

