-- ==== Sys2Proof/Laws/Bus.lean ====
section
/-! SUPPORT. What every access of the data bus and of the CRU bus leaves alone: the machine descriptor, WP, ST, the run state,
the interrupt bookkeeping, the keyboard, the scheduler and an X chain; PC too, but for a fetch. Time never runs backwards and the
event log only grows (10_state.md R55, R58). `State.Bus` says it once; the simp lemmas say it field by field. -/

namespace Sys2Proof.Machine

/-- `t` comes from `s` by bus accesses. -/
structure State.Bus (s t : State) : Prop where
  md : t.md = s.md
  wp : t.wp = s.wp
  st : t.st = s.st
  instPc : t.instPc = s.instPc
  run : t.run = s.run
  intPending : t.intPending = s.intPending
  noIntCheck : t.noIntCheck = s.noIntCheck
  kbd : t.kbd = s.kbd
  sched : t.sched = s.sched
  xChain : t.xChain = s.xChain
  cycles : s.cycles ≤ t.cycles
  events : ∃ l, t.events = s.events ++ l

theorem State.Bus.refl (s : State) : s.Bus s := by constructor <;> first | rfl | exact Nat.le_refl _ | exact ⟨[], by simp⟩

theorem State.Bus.trans {s t u : State} (h : s.Bus t) (k : t.Bus u) : s.Bus u := by
  constructor
  · rw [k.md, h.md]
  · rw [k.wp, h.wp]
  · rw [k.st, h.st]
  · rw [k.instPc, h.instPc]
  · rw [k.run, h.run]
  · rw [k.intPending, h.intPending]
  · rw [k.noIntCheck, h.noIntCheck]
  · rw [k.kbd, h.kbd]
  · rw [k.sched, h.sched]
  · rw [k.xChain, h.xChain]
  · exact Nat.le_trans h.cycles k.cycles
  · obtain ⟨l, hl⟩ := h.events
    obtain ⟨m, hm⟩ := k.events
    exact ⟨l ++ m, by rw [hm, hl, List.append_assoc]⟩

/-! ## The updates a bus access is made of -/

theorem bus_setIo (s : State) (v : Controller) : s.Bus (s.setIo v) := by
  constructor <;> first | rfl | exact Nat.le_refl _ | exact Nat.le_add_right _ _ | exact ⟨[], (List.append_nil _).symm⟩

theorem bus_setTags (s : State) (v : List (Nat × RegionTag)) : s.Bus (s.setTags v) := by
  constructor <;> first | rfl | exact Nat.le_refl _ | exact Nat.le_add_right _ _ | exact ⟨[], (List.append_nil _).symm⟩

theorem bus_setMapper (s : State) (v : Mapper) : s.Bus (s.setMapper v) := by
  constructor <;> first | rfl | exact Nat.le_refl _ | exact Nat.le_add_right _ _ | exact ⟨[], (List.append_nil _).symm⟩

theorem bus_setPool (s : State) (v : Memory) : s.Bus (s.setPool v) := by
  constructor <;> first | rfl | exact Nat.le_refl _ | exact Nat.le_add_right _ _ | exact ⟨[], (List.append_nil _).symm⟩

theorem bus_setScratch (s : State) (v : Memory) : s.Bus (s.setScratch v) := by
  constructor <;> first | rfl | exact Nat.le_refl _ | exact Nat.le_add_right _ _ | exact ⟨[], (List.append_nil _).symm⟩

theorem bus_setCartBank (s : State) (v : Nat) : s.Bus (s.setCartBank v) := by
  constructor <;> first | rfl | exact Nat.le_refl _ | exact Nat.le_add_right _ _ | exact ⟨[], (List.append_nil _).symm⟩

theorem bus_nextDraw (s : State)  : s.Bus (s.nextDraw) := by
  constructor <;> first | rfl | exact Nat.le_refl _ | exact Nat.le_add_right _ _ | exact ⟨[], (List.append_nil _).symm⟩

theorem bus_setDevInputs (s : State) (v : List DevReaction) : s.Bus (s.setDevInputs v) := by
  constructor <;> first | rfl | exact Nat.le_refl _ | exact Nat.le_add_right _ _ | exact ⟨[], (List.append_nil _).symm⟩

theorem bus_setCruInputs (s : State) (v : List EnableReaction) : s.Bus (s.setCruInputs v) := by
  constructor <;> first | rfl | exact Nat.le_refl _ | exact Nat.le_add_right _ _ | exact ⟨[], (List.append_nil _).symm⟩

theorem bus_setPc (s : State) (v : Word) : s.Bus (s.setPc v) := by
  constructor <;> first | rfl | exact Nat.le_refl _ | exact Nat.le_add_right _ _ | exact ⟨[], (List.append_nil _).symm⟩

theorem bus_addCycles (s : State) (n : Nat) : s.Bus (s.addCycles n) := by
  constructor <;> first | rfl | exact Nat.le_refl _ | exact Nat.le_add_right _ _ | exact ⟨[], (List.append_nil _).symm⟩

theorem bus_log (s : State) (e : Event) : s.Bus (s.log e) := by
  constructor <;> first | rfl | exact Nat.le_refl _ | exact ⟨[e], rfl⟩

/-- A retagging changes only the classifier table. -/
theorem retag_eq (s : State) (disk : Bool) (lo hi : Nat) : ∃ tags, s.retag disk lo hi = s.setTags tags := by
  unfold State.retag
  generalize List.filter _ _ = l
  suffices h : ∀ (l : List Nat) (t : State), (∃ tags, t = s.setTags tags) → ∃ tags, l.foldl (fun s g =>
      if sparseGet (regionInit s.md) s.tags g = .dsr ∨ sparseGet (regionInit s.md) s.tags g = .disk then
        s.setTag g (if disk then .disk else .dsr) else s) t = s.setTags tags from h l s ⟨s.tags, rfl⟩
  intro l
  induction l with
  | nil => exact fun t h => h
  | cons g l ih =>
    rintro t ⟨tags, rfl⟩
    refine ih _ ?_
    dsimp only
    split
    · exact ⟨_, rfl⟩
    · exact ⟨tags, rfl⟩

theorem bus_retag (s : State) (disk : Bool) (lo hi : Nat) : s.Bus (s.retag disk lo hi) := by
  obtain ⟨tags, h⟩ := retag_eq s disk lo hi
  rw [h]; exact bus_setTags s tags

theorem bus_applyReaction (s : State) (r : DevReaction) : s.Bus (s.applyReaction r) := by
  cases r with
  | quiet => exact .refl s
  | raise p => exact bus_setIo s _
  | clear p => exact bus_setIo s _

theorem bus_react (s : State) : s.Bus s.react := by
  unfold State.react
  split
  · exact .refl s
  · exact (bus_setDevInputs s _).trans (bus_applyReaction _ _)

theorem bus_applyEnable (s : State) (r : EnableReaction) : s.Bus (s.applyEnable r) := by
  cases r with
  | quiet => exact .refl s
  | retag disk lo hi => exact bus_retag s disk lo hi

theorem bus_reactEnable (s : State) : s.Bus s.reactEnable := by
  unfold State.reactEnable
  split
  · exact .refl s
  · exact (bus_setCruInputs s _).trans (bus_applyEnable _ _)

theorem bus_chargeBus (s : State) (t : RegionTag) : s.Bus (s.chargeBus t) := by
  unfold State.chargeBus
  split
  · exact bus_addCycles s _
  · exact .refl s

theorem bus_readByte (s : State) (a : Word) : s.Bus (s.readByte a).2 := by
  unfold State.readByte
  split
  · exact bus_chargeBus s _
  · refine .trans ?_ (bus_nextDraw _)
    split
    · exact ((bus_chargeBus s _).trans (bus_log _ _)).trans (bus_react _)
    · exact bus_chargeBus s _

theorem bus_readWord (s : State) (a : Word) : s.Bus (s.readWord a).2 := by
  unfold State.readWord
  dsimp only
  split
  · exact bus_chargeBus s _
  · refine .trans ?_ (bus_nextDraw _)
    split
    · exact ((bus_chargeBus s _).trans (bus_log _ _)).trans (bus_react _)
    · exact bus_chargeBus s _

theorem bus_storeHome (s : State) (h : Home) (v : Byte) : s.Bus (s.storeHome h v) := by
  unfold State.storeHome
  split
  · exact bus_setScratch s _
  · exact bus_setPool s _
  all_goals exact .refl s

theorem bus_devWrite (s : State) (t : RegionTag) (a : Word) (n : Nat) (v : Word) : s.Bus (s.devWrite t a n v) :=
  (bus_log s _).trans (bus_react _)

theorem bus_handleByte (s : State) (a : Word) (v : Byte) : s.Bus (s.handleByte a v) := by
  unfold State.handleByte
  split
  all_goals first
    | exact .refl s
    | exact bus_storeHome s _ _
    | exact bus_setCartBank s _
    | exact bus_setMapper s _
    | exact bus_devWrite s _ _ _ _

theorem bus_handleWord (s : State) (e v : Word) : s.Bus (s.handleWord e v) := by
  unfold State.handleWord
  split
  all_goals first
    | exact .refl s
    | exact (bus_storeHome s _ _).trans (bus_storeHome _ _ _)
    | exact bus_setCartBank s _
    | exact bus_setMapper s _
    | exact bus_devWrite s _ _ _ _

theorem bus_writeByte (s : State) (a : Word) (v : Byte) : s.Bus (s.writeByte a v) := by
  unfold State.writeByte
  refine .trans ?_ ((bus_chargeBus _ _).trans (bus_handleByte _ _ _))
  split
  · exact bus_readByte s a
  · exact .refl s

theorem bus_writeWord (s : State) (a v : Word) : s.Bus (s.writeWord a v) := by
  unfold State.writeWord
  refine .trans ?_ ((bus_chargeBus _ _).trans (bus_handleWord _ _ _))
  split
  · exact bus_readWord s a
  · exact .refl s

theorem bus_fetch (s : State) : s.Bus s.fetch.2 := (bus_readWord s _).trans (bus_setPc _ _)

theorem bus_readReg (s : State) (i : Nat) : s.Bus (s.readReg i).2 := bus_readWord s _

theorem bus_writeReg (s : State) (i : Nat) (v : Word) : s.Bus (s.writeReg i v) := bus_writeWord s _ v

theorem bus_readVector (s : State) (v : Word) : s.Bus (s.readVector v).2 := (bus_readWord s _).trans (bus_readWord _ _)

theorem bus_timerSample (s : State) : s.Bus s.timerSample := bus_setIo s _

theorem bus_matrixRow (s : State) (r : Nat) : s.Bus (s.matrixRow r).2 := by
  unfold State.matrixRow
  split
  · exact .refl s
  · exact bus_nextDraw s

theorem bus_ioRead (s : State) (p : Nat) : s.Bus (s.ioRead p).2 := by
  unfold State.ioRead
  split
  · exact .refl s
  · split
    · exact .refl s
    · split
      · exact bus_matrixRow s _
      · exact .refl s

theorem bus_timerRead (s : State) (p : Nat) : s.Bus (s.timerRead p).2 := by
  unfold State.timerRead
  split
  · exact .refl s
  · split
    · exact .refl s
    · split
      · exact .refl s
      · exact (bus_setIo s _).trans (bus_ioRead _ _)

theorem bus_pinRead (s : State) (p : Nat) : s.Bus (s.pinRead p).2 := by
  unfold State.pinRead
  dsimp only
  split
  · exact (bus_timerSample s).trans (bus_timerRead _ _)
  · exact (bus_timerSample s).trans (bus_ioRead _ _)

theorem bus_pinWrite (s : State) (p : Nat) (b : Bool) : s.Bus (s.pinWrite p b) :=
  (bus_timerSample s).trans (bus_setIo _ _)

theorem bus_writeVisible (s : State) (b : Bool) : s.Bus (s.writeVisible b) :=
  ((bus_setMapper s _).trans (bus_setTags _ _)).trans (bus_setTags _ _)

theorem bus_cruRead (s : State) (a : CruAddr) : s.Bus (s.cruRead a).2 := by
  unfold State.cruRead
  split
  · exact bus_pinRead s _
  · split
    · exact .refl s
    · split
      · exact .refl s
      · exact bus_nextDraw s

theorem bus_cruWrite (s : State) (a : CruAddr) (b : Bool) : s.Bus (s.cruWrite a b) := by
  unfold State.cruWrite
  split
  · exact bus_pinWrite s _ b
  · split
    · exact bus_writeVisible s b
    · split
      · exact bus_setMapper s _
      · exact (bus_log s _).trans (bus_reactEnable _)

theorem bus_cruWriteBits (s : State) (a : CruAddr) (v : Word) (i n : Nat) : s.Bus (s.cruWriteBits a v i n) := by
  induction n generalizing s i with
  | zero => exact .refl s
  | succ n ih => exact (bus_cruWrite s _ _).trans (ih _ _)

theorem bus_cruReadBits (s : State) (a : CruAddr) (v : Word) (i n : Nat) : s.Bus (s.cruReadBits a v i n).2 := by
  induction n generalizing s v i with
  | zero => exact .refl s
  | succ n ih => exact (bus_cruRead s _).trans (ih _ _ _)

theorem bus_cruBase (s : State) : s.Bus s.cruBase.2 := bus_readReg s 12

theorem bus_cruBitAddr (s : State) (disp : Byte) : s.Bus (s.cruBitAddr disp).2 := bus_cruBase s

theorem bus_shiftCount (s : State) (c : BitVec 4) : s.Bus (s.shiftCount c).2 := by
  unfold State.shiftCount
  split
  · exact bus_readReg s 0
  · exact .refl s

theorem bus_ea (s : State) (g : GA) (size : Size) : s.Bus (s.ea g size).2 := by
  cases g with
  | reg n => exact .refl s
  | ind n => exact bus_readReg s _
  | sym => exact bus_fetch s
  | idx n => exact (bus_fetch s).trans (bus_readReg _ _)
  | inc n => exact (bus_readReg s _).trans (bus_writeReg _ _ _)

theorem bus_sourceWord (s : State) (g : GA) : s.Bus (s.sourceWord g).2 := (bus_ea s g _).trans (bus_readWord _ _)

theorem bus_sourceByte (s : State) (g : GA) : s.Bus (s.sourceByte g).2 := (bus_ea s g _).trans (bus_readByte _ _)

/-! ## PC -/

theorem pc_retag (s : State) (disk : Bool) (lo hi : Nat) : (s.retag disk lo hi).pc = s.pc := by
  obtain ⟨tags, h⟩ := retag_eq s disk lo hi
  rw [h]; rfl

@[simp] theorem reactEnable_pc (s : State) : s.reactEnable.pc = s.pc := by
  unfold State.reactEnable
  split
  · rfl
  · unfold State.applyEnable
    split <;> first | rfl | exact pc_retag _ _ _ _

@[simp] theorem react_pc (s : State) : s.react.pc = s.pc := by
  unfold State.react
  split
  · rfl
  · unfold State.applyReaction
    split <;> rfl

@[simp] theorem chargeBus_pc (s : State) (t : RegionTag) : (s.chargeBus t).pc = s.pc := by
  unfold State.chargeBus; split <;> rfl

@[simp] theorem readByte_pc (s : State) (a : Word) : (s.readByte a).2.pc = s.pc := by
  unfold State.readByte; dsimp only; split <;> (try split) <;> simp

@[simp] theorem readWord_pc (s : State) (a : Word) : (s.readWord a).2.pc = s.pc := by
  unfold State.readWord; dsimp only; split <;> (try split) <;> simp

@[simp] theorem storeHome_pc (s : State) (h : Home) (v : Byte) : (s.storeHome h v).pc = s.pc := by
  unfold State.storeHome; split <;> rfl

@[simp] theorem handleByte_pc (s : State) (a : Word) (v : Byte) : (s.handleByte a v).pc = s.pc := by
  unfold State.handleByte; split <;> simp [State.selectCart, State.devWrite]

@[simp] theorem handleWord_pc (s : State) (e v : Word) : (s.handleWord e v).pc = s.pc := by
  unfold State.handleWord; split <;> simp [State.selectCart, State.devWrite]

@[simp] theorem writeByte_pc (s : State) (a : Word) (v : Byte) : (s.writeByte a v).pc = s.pc := by
  unfold State.writeByte; dsimp only; split <;> simp

@[simp] theorem writeWord_pc (s : State) (a v : Word) : (s.writeWord a v).pc = s.pc := by
  unfold State.writeWord; dsimp only; split <;> simp

@[simp] theorem fetch_pc (s : State) : s.fetch.2.pc = evenAddr (s.pc + 2) := rfl

@[simp] theorem readReg_pc (s : State) (i : Nat) : (s.readReg i).2.pc = s.pc := readWord_pc ..

@[simp] theorem writeReg_pc (s : State) (i : Nat) (v : Word) : (s.writeReg i v).pc = s.pc := writeWord_pc ..

@[simp] theorem readVector_pc (s : State) (v : Word) : (s.readVector v).2.pc = s.pc := by simp [State.readVector]

@[simp] theorem timerSample_pc (s : State) : s.timerSample.pc = s.pc := rfl

@[simp] theorem matrixRow_pc (s : State) (r : Nat) : (s.matrixRow r).2.pc = s.pc := by
  unfold State.matrixRow; split <;> rfl

@[simp] theorem ioRead_pc (s : State) (p : Nat) : (s.ioRead p).2.pc = s.pc := by
  unfold State.ioRead; split
  · rfl
  · split
    · rfl
    · split <;> simp

@[simp] theorem timerRead_pc (s : State) (p : Nat) : (s.timerRead p).2.pc = s.pc := by
  unfold State.timerRead; split
  · rfl
  · split
    · rfl
    · split <;> simp

@[simp] theorem pinRead_pc (s : State) (p : Nat) : (s.pinRead p).2.pc = s.pc := by
  unfold State.pinRead; dsimp only; split <;> simp

@[simp] theorem pinWrite_pc (s : State) (p : Nat) (b : Bool) : (s.pinWrite p b).pc = s.pc := rfl

@[simp] theorem cruRead_pc (s : State) (a : CruAddr) : (s.cruRead a).2.pc = s.pc := by
  unfold State.cruRead; split
  · simp
  · split
    · rfl
    · split <;> rfl

@[simp] theorem cruWrite_pc (s : State) (a : CruAddr) (b : Bool) : (s.cruWrite a b).pc = s.pc := by
  unfold State.cruWrite; split
  · rfl
  · split
    · rfl
    · split <;> simp

@[simp] theorem cruWriteBits_pc (s : State) (a : CruAddr) (v : Word) (i n : Nat) :
    (s.cruWriteBits a v i n).pc = s.pc := by
  induction n generalizing s i with
  | zero => rfl
  | succ n ih => simp [State.cruWriteBits, ih]

@[simp] theorem cruReadBits_pc (s : State) (a : CruAddr) (v : Word) (i n : Nat) :
    (s.cruReadBits a v i n).2.pc = s.pc := by
  induction n generalizing s v i with
  | zero => rfl
  | succ n ih => simp [State.cruReadBits, ih]

@[simp] theorem cruBase_pc (s : State) : s.cruBase.2.pc = s.pc := by simp [State.cruBase]

@[simp] theorem cruBitAddr_pc (s : State) (disp : Byte) : (s.cruBitAddr disp).2.pc = s.pc := by
  simp [State.cruBitAddr]

@[simp] theorem shiftCount_pc (s : State) (c : BitVec 4) : (s.shiftCount c).2.pc = s.pc := by
  unfold State.shiftCount; split <;> simp

/-- Resolving an operand moves PC past its extension word, if it has one (40_operands.md R202). -/
theorem ea_pc (s : State) (g : GA) (size : Size) (h : s.pc.getLsbD 0 = false) :
    (s.ea g size).2.pc = s.pc + 2 * BitVec.ofNat 16 g.extensionWords := by
  cases g <;> simp [State.ea, GA.extensionWords]
  all_goals exact evenAddr_add_two h

/-! ## The other fields -/

@[simp] theorem readByte_md (s : State) (a : Word) : (s.readByte a).2.md = s.md := (bus_readByte s a).md
@[simp] theorem readByte_wp (s : State) (a : Word) : (s.readByte a).2.wp = s.wp := (bus_readByte s a).wp
@[simp] theorem readByte_st (s : State) (a : Word) : (s.readByte a).2.st = s.st := (bus_readByte s a).st
@[simp] theorem readByte_instPc (s : State) (a : Word) : (s.readByte a).2.instPc = s.instPc := (bus_readByte s a).instPc
@[simp] theorem readByte_run (s : State) (a : Word) : (s.readByte a).2.run = s.run := (bus_readByte s a).run
@[simp] theorem readByte_intPending (s : State) (a : Word) : (s.readByte a).2.intPending = s.intPending := (bus_readByte s a).intPending
@[simp] theorem readByte_noIntCheck (s : State) (a : Word) : (s.readByte a).2.noIntCheck = s.noIntCheck := (bus_readByte s a).noIntCheck
@[simp] theorem readByte_kbd (s : State) (a : Word) : (s.readByte a).2.kbd = s.kbd := (bus_readByte s a).kbd
@[simp] theorem readByte_sched (s : State) (a : Word) : (s.readByte a).2.sched = s.sched := (bus_readByte s a).sched
@[simp] theorem readByte_xChain (s : State) (a : Word) : (s.readByte a).2.xChain = s.xChain := (bus_readByte s a).xChain

@[simp] theorem readWord_md (s : State) (a : Word) : (s.readWord a).2.md = s.md := (bus_readWord s a).md
@[simp] theorem readWord_wp (s : State) (a : Word) : (s.readWord a).2.wp = s.wp := (bus_readWord s a).wp
@[simp] theorem readWord_st (s : State) (a : Word) : (s.readWord a).2.st = s.st := (bus_readWord s a).st
@[simp] theorem readWord_instPc (s : State) (a : Word) : (s.readWord a).2.instPc = s.instPc := (bus_readWord s a).instPc
@[simp] theorem readWord_run (s : State) (a : Word) : (s.readWord a).2.run = s.run := (bus_readWord s a).run
@[simp] theorem readWord_intPending (s : State) (a : Word) : (s.readWord a).2.intPending = s.intPending := (bus_readWord s a).intPending
@[simp] theorem readWord_noIntCheck (s : State) (a : Word) : (s.readWord a).2.noIntCheck = s.noIntCheck := (bus_readWord s a).noIntCheck
@[simp] theorem readWord_kbd (s : State) (a : Word) : (s.readWord a).2.kbd = s.kbd := (bus_readWord s a).kbd
@[simp] theorem readWord_sched (s : State) (a : Word) : (s.readWord a).2.sched = s.sched := (bus_readWord s a).sched
@[simp] theorem readWord_xChain (s : State) (a : Word) : (s.readWord a).2.xChain = s.xChain := (bus_readWord s a).xChain

@[simp] theorem storeHome_md (s : State) (h : Home) (v : Byte) : (s.storeHome h v).md = s.md := (bus_storeHome s h v).md
@[simp] theorem storeHome_wp (s : State) (h : Home) (v : Byte) : (s.storeHome h v).wp = s.wp := (bus_storeHome s h v).wp
@[simp] theorem storeHome_st (s : State) (h : Home) (v : Byte) : (s.storeHome h v).st = s.st := (bus_storeHome s h v).st
@[simp] theorem storeHome_instPc (s : State) (h : Home) (v : Byte) : (s.storeHome h v).instPc = s.instPc := (bus_storeHome s h v).instPc
@[simp] theorem storeHome_run (s : State) (h : Home) (v : Byte) : (s.storeHome h v).run = s.run := (bus_storeHome s h v).run
@[simp] theorem storeHome_intPending (s : State) (h : Home) (v : Byte) : (s.storeHome h v).intPending = s.intPending := (bus_storeHome s h v).intPending
@[simp] theorem storeHome_noIntCheck (s : State) (h : Home) (v : Byte) : (s.storeHome h v).noIntCheck = s.noIntCheck := (bus_storeHome s h v).noIntCheck
@[simp] theorem storeHome_kbd (s : State) (h : Home) (v : Byte) : (s.storeHome h v).kbd = s.kbd := (bus_storeHome s h v).kbd
@[simp] theorem storeHome_sched (s : State) (h : Home) (v : Byte) : (s.storeHome h v).sched = s.sched := (bus_storeHome s h v).sched
@[simp] theorem storeHome_xChain (s : State) (h : Home) (v : Byte) : (s.storeHome h v).xChain = s.xChain := (bus_storeHome s h v).xChain

@[simp] theorem writeByte_md (s : State) (a : Word) (v : Byte) : (s.writeByte a v).md = s.md := (bus_writeByte s a v).md
@[simp] theorem writeByte_wp (s : State) (a : Word) (v : Byte) : (s.writeByte a v).wp = s.wp := (bus_writeByte s a v).wp
@[simp] theorem writeByte_st (s : State) (a : Word) (v : Byte) : (s.writeByte a v).st = s.st := (bus_writeByte s a v).st
@[simp] theorem writeByte_instPc (s : State) (a : Word) (v : Byte) : (s.writeByte a v).instPc = s.instPc := (bus_writeByte s a v).instPc
@[simp] theorem writeByte_run (s : State) (a : Word) (v : Byte) : (s.writeByte a v).run = s.run := (bus_writeByte s a v).run
@[simp] theorem writeByte_intPending (s : State) (a : Word) (v : Byte) : (s.writeByte a v).intPending = s.intPending := (bus_writeByte s a v).intPending
@[simp] theorem writeByte_noIntCheck (s : State) (a : Word) (v : Byte) : (s.writeByte a v).noIntCheck = s.noIntCheck := (bus_writeByte s a v).noIntCheck
@[simp] theorem writeByte_kbd (s : State) (a : Word) (v : Byte) : (s.writeByte a v).kbd = s.kbd := (bus_writeByte s a v).kbd
@[simp] theorem writeByte_sched (s : State) (a : Word) (v : Byte) : (s.writeByte a v).sched = s.sched := (bus_writeByte s a v).sched
@[simp] theorem writeByte_xChain (s : State) (a : Word) (v : Byte) : (s.writeByte a v).xChain = s.xChain := (bus_writeByte s a v).xChain

@[simp] theorem writeWord_md (s : State) (a v : Word) : (s.writeWord a v).md = s.md := (bus_writeWord s a v).md
@[simp] theorem writeWord_wp (s : State) (a v : Word) : (s.writeWord a v).wp = s.wp := (bus_writeWord s a v).wp
@[simp] theorem writeWord_st (s : State) (a v : Word) : (s.writeWord a v).st = s.st := (bus_writeWord s a v).st
@[simp] theorem writeWord_instPc (s : State) (a v : Word) : (s.writeWord a v).instPc = s.instPc := (bus_writeWord s a v).instPc
@[simp] theorem writeWord_run (s : State) (a v : Word) : (s.writeWord a v).run = s.run := (bus_writeWord s a v).run
@[simp] theorem writeWord_intPending (s : State) (a v : Word) : (s.writeWord a v).intPending = s.intPending := (bus_writeWord s a v).intPending
@[simp] theorem writeWord_noIntCheck (s : State) (a v : Word) : (s.writeWord a v).noIntCheck = s.noIntCheck := (bus_writeWord s a v).noIntCheck
@[simp] theorem writeWord_kbd (s : State) (a v : Word) : (s.writeWord a v).kbd = s.kbd := (bus_writeWord s a v).kbd
@[simp] theorem writeWord_sched (s : State) (a v : Word) : (s.writeWord a v).sched = s.sched := (bus_writeWord s a v).sched
@[simp] theorem writeWord_xChain (s : State) (a v : Word) : (s.writeWord a v).xChain = s.xChain := (bus_writeWord s a v).xChain

@[simp] theorem fetch_md (s : State) : s.fetch.2.md = s.md := (bus_fetch s).md
@[simp] theorem fetch_wp (s : State) : s.fetch.2.wp = s.wp := (bus_fetch s).wp
@[simp] theorem fetch_st (s : State) : s.fetch.2.st = s.st := (bus_fetch s).st
@[simp] theorem fetch_instPc (s : State) : s.fetch.2.instPc = s.instPc := (bus_fetch s).instPc
@[simp] theorem fetch_run (s : State) : s.fetch.2.run = s.run := (bus_fetch s).run
@[simp] theorem fetch_intPending (s : State) : s.fetch.2.intPending = s.intPending := (bus_fetch s).intPending
@[simp] theorem fetch_noIntCheck (s : State) : s.fetch.2.noIntCheck = s.noIntCheck := (bus_fetch s).noIntCheck
@[simp] theorem fetch_kbd (s : State) : s.fetch.2.kbd = s.kbd := (bus_fetch s).kbd
@[simp] theorem fetch_sched (s : State) : s.fetch.2.sched = s.sched := (bus_fetch s).sched
@[simp] theorem fetch_xChain (s : State) : s.fetch.2.xChain = s.xChain := (bus_fetch s).xChain

@[simp] theorem readReg_md (s : State) (i : Nat) : (s.readReg i).2.md = s.md := (bus_readReg s i).md
@[simp] theorem readReg_wp (s : State) (i : Nat) : (s.readReg i).2.wp = s.wp := (bus_readReg s i).wp
@[simp] theorem readReg_st (s : State) (i : Nat) : (s.readReg i).2.st = s.st := (bus_readReg s i).st
@[simp] theorem readReg_instPc (s : State) (i : Nat) : (s.readReg i).2.instPc = s.instPc := (bus_readReg s i).instPc
@[simp] theorem readReg_run (s : State) (i : Nat) : (s.readReg i).2.run = s.run := (bus_readReg s i).run
@[simp] theorem readReg_intPending (s : State) (i : Nat) : (s.readReg i).2.intPending = s.intPending := (bus_readReg s i).intPending
@[simp] theorem readReg_noIntCheck (s : State) (i : Nat) : (s.readReg i).2.noIntCheck = s.noIntCheck := (bus_readReg s i).noIntCheck
@[simp] theorem readReg_kbd (s : State) (i : Nat) : (s.readReg i).2.kbd = s.kbd := (bus_readReg s i).kbd
@[simp] theorem readReg_sched (s : State) (i : Nat) : (s.readReg i).2.sched = s.sched := (bus_readReg s i).sched
@[simp] theorem readReg_xChain (s : State) (i : Nat) : (s.readReg i).2.xChain = s.xChain := (bus_readReg s i).xChain

@[simp] theorem writeReg_md (s : State) (i : Nat) (v : Word) : (s.writeReg i v).md = s.md := (bus_writeReg s i v).md
@[simp] theorem writeReg_wp (s : State) (i : Nat) (v : Word) : (s.writeReg i v).wp = s.wp := (bus_writeReg s i v).wp
@[simp] theorem writeReg_st (s : State) (i : Nat) (v : Word) : (s.writeReg i v).st = s.st := (bus_writeReg s i v).st
@[simp] theorem writeReg_instPc (s : State) (i : Nat) (v : Word) : (s.writeReg i v).instPc = s.instPc := (bus_writeReg s i v).instPc
@[simp] theorem writeReg_run (s : State) (i : Nat) (v : Word) : (s.writeReg i v).run = s.run := (bus_writeReg s i v).run
@[simp] theorem writeReg_intPending (s : State) (i : Nat) (v : Word) : (s.writeReg i v).intPending = s.intPending := (bus_writeReg s i v).intPending
@[simp] theorem writeReg_noIntCheck (s : State) (i : Nat) (v : Word) : (s.writeReg i v).noIntCheck = s.noIntCheck := (bus_writeReg s i v).noIntCheck
@[simp] theorem writeReg_kbd (s : State) (i : Nat) (v : Word) : (s.writeReg i v).kbd = s.kbd := (bus_writeReg s i v).kbd
@[simp] theorem writeReg_sched (s : State) (i : Nat) (v : Word) : (s.writeReg i v).sched = s.sched := (bus_writeReg s i v).sched
@[simp] theorem writeReg_xChain (s : State) (i : Nat) (v : Word) : (s.writeReg i v).xChain = s.xChain := (bus_writeReg s i v).xChain

@[simp] theorem readVector_md (s : State) (v : Word) : (s.readVector v).2.md = s.md := (bus_readVector s v).md
@[simp] theorem readVector_wp (s : State) (v : Word) : (s.readVector v).2.wp = s.wp := (bus_readVector s v).wp
@[simp] theorem readVector_st (s : State) (v : Word) : (s.readVector v).2.st = s.st := (bus_readVector s v).st
@[simp] theorem readVector_instPc (s : State) (v : Word) : (s.readVector v).2.instPc = s.instPc := (bus_readVector s v).instPc
@[simp] theorem readVector_run (s : State) (v : Word) : (s.readVector v).2.run = s.run := (bus_readVector s v).run
@[simp] theorem readVector_intPending (s : State) (v : Word) : (s.readVector v).2.intPending = s.intPending := (bus_readVector s v).intPending
@[simp] theorem readVector_noIntCheck (s : State) (v : Word) : (s.readVector v).2.noIntCheck = s.noIntCheck := (bus_readVector s v).noIntCheck
@[simp] theorem readVector_kbd (s : State) (v : Word) : (s.readVector v).2.kbd = s.kbd := (bus_readVector s v).kbd
@[simp] theorem readVector_sched (s : State) (v : Word) : (s.readVector v).2.sched = s.sched := (bus_readVector s v).sched
@[simp] theorem readVector_xChain (s : State) (v : Word) : (s.readVector v).2.xChain = s.xChain := (bus_readVector s v).xChain

@[simp] theorem chargeBus_md (s : State) (t : RegionTag) : (s.chargeBus t).md = s.md := (bus_chargeBus s t).md
@[simp] theorem chargeBus_wp (s : State) (t : RegionTag) : (s.chargeBus t).wp = s.wp := (bus_chargeBus s t).wp
@[simp] theorem chargeBus_st (s : State) (t : RegionTag) : (s.chargeBus t).st = s.st := (bus_chargeBus s t).st
@[simp] theorem chargeBus_instPc (s : State) (t : RegionTag) : (s.chargeBus t).instPc = s.instPc := (bus_chargeBus s t).instPc
@[simp] theorem chargeBus_run (s : State) (t : RegionTag) : (s.chargeBus t).run = s.run := (bus_chargeBus s t).run
@[simp] theorem chargeBus_intPending (s : State) (t : RegionTag) : (s.chargeBus t).intPending = s.intPending := (bus_chargeBus s t).intPending
@[simp] theorem chargeBus_noIntCheck (s : State) (t : RegionTag) : (s.chargeBus t).noIntCheck = s.noIntCheck := (bus_chargeBus s t).noIntCheck
@[simp] theorem chargeBus_kbd (s : State) (t : RegionTag) : (s.chargeBus t).kbd = s.kbd := (bus_chargeBus s t).kbd
@[simp] theorem chargeBus_sched (s : State) (t : RegionTag) : (s.chargeBus t).sched = s.sched := (bus_chargeBus s t).sched
@[simp] theorem chargeBus_xChain (s : State) (t : RegionTag) : (s.chargeBus t).xChain = s.xChain := (bus_chargeBus s t).xChain

@[simp] theorem react_md (s : State) : s.react.md = s.md := (bus_react s).md
@[simp] theorem react_wp (s : State) : s.react.wp = s.wp := (bus_react s).wp
@[simp] theorem react_st (s : State) : s.react.st = s.st := (bus_react s).st
@[simp] theorem react_instPc (s : State) : s.react.instPc = s.instPc := (bus_react s).instPc
@[simp] theorem react_run (s : State) : s.react.run = s.run := (bus_react s).run
@[simp] theorem react_intPending (s : State) : s.react.intPending = s.intPending := (bus_react s).intPending
@[simp] theorem react_noIntCheck (s : State) : s.react.noIntCheck = s.noIntCheck := (bus_react s).noIntCheck
@[simp] theorem react_kbd (s : State) : s.react.kbd = s.kbd := (bus_react s).kbd
@[simp] theorem react_sched (s : State) : s.react.sched = s.sched := (bus_react s).sched
@[simp] theorem react_xChain (s : State) : s.react.xChain = s.xChain := (bus_react s).xChain

@[simp] theorem reactEnable_md (s : State) : s.reactEnable.md = s.md := (bus_reactEnable s).md
@[simp] theorem reactEnable_wp (s : State) : s.reactEnable.wp = s.wp := (bus_reactEnable s).wp
@[simp] theorem reactEnable_st (s : State) : s.reactEnable.st = s.st := (bus_reactEnable s).st
@[simp] theorem reactEnable_instPc (s : State) : s.reactEnable.instPc = s.instPc := (bus_reactEnable s).instPc
@[simp] theorem reactEnable_run (s : State) : s.reactEnable.run = s.run := (bus_reactEnable s).run
@[simp] theorem reactEnable_intPending (s : State) : s.reactEnable.intPending = s.intPending := (bus_reactEnable s).intPending
@[simp] theorem reactEnable_noIntCheck (s : State) : s.reactEnable.noIntCheck = s.noIntCheck := (bus_reactEnable s).noIntCheck
@[simp] theorem reactEnable_kbd (s : State) : s.reactEnable.kbd = s.kbd := (bus_reactEnable s).kbd
@[simp] theorem reactEnable_sched (s : State) : s.reactEnable.sched = s.sched := (bus_reactEnable s).sched
@[simp] theorem reactEnable_xChain (s : State) : s.reactEnable.xChain = s.xChain := (bus_reactEnable s).xChain

@[simp] theorem pinRead_md (s : State) (p : Nat) : (s.pinRead p).2.md = s.md := (bus_pinRead s p).md
@[simp] theorem pinRead_wp (s : State) (p : Nat) : (s.pinRead p).2.wp = s.wp := (bus_pinRead s p).wp
@[simp] theorem pinRead_st (s : State) (p : Nat) : (s.pinRead p).2.st = s.st := (bus_pinRead s p).st
@[simp] theorem pinRead_instPc (s : State) (p : Nat) : (s.pinRead p).2.instPc = s.instPc := (bus_pinRead s p).instPc
@[simp] theorem pinRead_run (s : State) (p : Nat) : (s.pinRead p).2.run = s.run := (bus_pinRead s p).run
@[simp] theorem pinRead_intPending (s : State) (p : Nat) : (s.pinRead p).2.intPending = s.intPending := (bus_pinRead s p).intPending
@[simp] theorem pinRead_noIntCheck (s : State) (p : Nat) : (s.pinRead p).2.noIntCheck = s.noIntCheck := (bus_pinRead s p).noIntCheck
@[simp] theorem pinRead_kbd (s : State) (p : Nat) : (s.pinRead p).2.kbd = s.kbd := (bus_pinRead s p).kbd
@[simp] theorem pinRead_sched (s : State) (p : Nat) : (s.pinRead p).2.sched = s.sched := (bus_pinRead s p).sched
@[simp] theorem pinRead_xChain (s : State) (p : Nat) : (s.pinRead p).2.xChain = s.xChain := (bus_pinRead s p).xChain

@[simp] theorem pinWrite_md (s : State) (p : Nat) (b : Bool) : (s.pinWrite p b).md = s.md := (bus_pinWrite s p b).md
@[simp] theorem pinWrite_wp (s : State) (p : Nat) (b : Bool) : (s.pinWrite p b).wp = s.wp := (bus_pinWrite s p b).wp
@[simp] theorem pinWrite_st (s : State) (p : Nat) (b : Bool) : (s.pinWrite p b).st = s.st := (bus_pinWrite s p b).st
@[simp] theorem pinWrite_instPc (s : State) (p : Nat) (b : Bool) : (s.pinWrite p b).instPc = s.instPc := (bus_pinWrite s p b).instPc
@[simp] theorem pinWrite_run (s : State) (p : Nat) (b : Bool) : (s.pinWrite p b).run = s.run := (bus_pinWrite s p b).run
@[simp] theorem pinWrite_intPending (s : State) (p : Nat) (b : Bool) : (s.pinWrite p b).intPending = s.intPending := (bus_pinWrite s p b).intPending
@[simp] theorem pinWrite_noIntCheck (s : State) (p : Nat) (b : Bool) : (s.pinWrite p b).noIntCheck = s.noIntCheck := (bus_pinWrite s p b).noIntCheck
@[simp] theorem pinWrite_kbd (s : State) (p : Nat) (b : Bool) : (s.pinWrite p b).kbd = s.kbd := (bus_pinWrite s p b).kbd
@[simp] theorem pinWrite_sched (s : State) (p : Nat) (b : Bool) : (s.pinWrite p b).sched = s.sched := (bus_pinWrite s p b).sched
@[simp] theorem pinWrite_xChain (s : State) (p : Nat) (b : Bool) : (s.pinWrite p b).xChain = s.xChain := (bus_pinWrite s p b).xChain

@[simp] theorem cruRead_md (s : State) (a : CruAddr) : (s.cruRead a).2.md = s.md := (bus_cruRead s a).md
@[simp] theorem cruRead_wp (s : State) (a : CruAddr) : (s.cruRead a).2.wp = s.wp := (bus_cruRead s a).wp
@[simp] theorem cruRead_st (s : State) (a : CruAddr) : (s.cruRead a).2.st = s.st := (bus_cruRead s a).st
@[simp] theorem cruRead_instPc (s : State) (a : CruAddr) : (s.cruRead a).2.instPc = s.instPc := (bus_cruRead s a).instPc
@[simp] theorem cruRead_run (s : State) (a : CruAddr) : (s.cruRead a).2.run = s.run := (bus_cruRead s a).run
@[simp] theorem cruRead_intPending (s : State) (a : CruAddr) : (s.cruRead a).2.intPending = s.intPending := (bus_cruRead s a).intPending
@[simp] theorem cruRead_noIntCheck (s : State) (a : CruAddr) : (s.cruRead a).2.noIntCheck = s.noIntCheck := (bus_cruRead s a).noIntCheck
@[simp] theorem cruRead_kbd (s : State) (a : CruAddr) : (s.cruRead a).2.kbd = s.kbd := (bus_cruRead s a).kbd
@[simp] theorem cruRead_sched (s : State) (a : CruAddr) : (s.cruRead a).2.sched = s.sched := (bus_cruRead s a).sched
@[simp] theorem cruRead_xChain (s : State) (a : CruAddr) : (s.cruRead a).2.xChain = s.xChain := (bus_cruRead s a).xChain

@[simp] theorem cruWrite_md (s : State) (a : CruAddr) (b : Bool) : (s.cruWrite a b).md = s.md := (bus_cruWrite s a b).md
@[simp] theorem cruWrite_wp (s : State) (a : CruAddr) (b : Bool) : (s.cruWrite a b).wp = s.wp := (bus_cruWrite s a b).wp
@[simp] theorem cruWrite_st (s : State) (a : CruAddr) (b : Bool) : (s.cruWrite a b).st = s.st := (bus_cruWrite s a b).st
@[simp] theorem cruWrite_instPc (s : State) (a : CruAddr) (b : Bool) : (s.cruWrite a b).instPc = s.instPc := (bus_cruWrite s a b).instPc
@[simp] theorem cruWrite_run (s : State) (a : CruAddr) (b : Bool) : (s.cruWrite a b).run = s.run := (bus_cruWrite s a b).run
@[simp] theorem cruWrite_intPending (s : State) (a : CruAddr) (b : Bool) : (s.cruWrite a b).intPending = s.intPending := (bus_cruWrite s a b).intPending
@[simp] theorem cruWrite_noIntCheck (s : State) (a : CruAddr) (b : Bool) : (s.cruWrite a b).noIntCheck = s.noIntCheck := (bus_cruWrite s a b).noIntCheck
@[simp] theorem cruWrite_kbd (s : State) (a : CruAddr) (b : Bool) : (s.cruWrite a b).kbd = s.kbd := (bus_cruWrite s a b).kbd
@[simp] theorem cruWrite_sched (s : State) (a : CruAddr) (b : Bool) : (s.cruWrite a b).sched = s.sched := (bus_cruWrite s a b).sched
@[simp] theorem cruWrite_xChain (s : State) (a : CruAddr) (b : Bool) : (s.cruWrite a b).xChain = s.xChain := (bus_cruWrite s a b).xChain

@[simp] theorem cruWriteBits_md (s : State) (a : CruAddr) (v : Word) (i n : Nat) : (s.cruWriteBits a v i n).md = s.md := (bus_cruWriteBits s a v i n).md
@[simp] theorem cruWriteBits_wp (s : State) (a : CruAddr) (v : Word) (i n : Nat) : (s.cruWriteBits a v i n).wp = s.wp := (bus_cruWriteBits s a v i n).wp
@[simp] theorem cruWriteBits_st (s : State) (a : CruAddr) (v : Word) (i n : Nat) : (s.cruWriteBits a v i n).st = s.st := (bus_cruWriteBits s a v i n).st
@[simp] theorem cruWriteBits_instPc (s : State) (a : CruAddr) (v : Word) (i n : Nat) : (s.cruWriteBits a v i n).instPc = s.instPc := (bus_cruWriteBits s a v i n).instPc
@[simp] theorem cruWriteBits_run (s : State) (a : CruAddr) (v : Word) (i n : Nat) : (s.cruWriteBits a v i n).run = s.run := (bus_cruWriteBits s a v i n).run
@[simp] theorem cruWriteBits_intPending (s : State) (a : CruAddr) (v : Word) (i n : Nat) : (s.cruWriteBits a v i n).intPending = s.intPending := (bus_cruWriteBits s a v i n).intPending
@[simp] theorem cruWriteBits_noIntCheck (s : State) (a : CruAddr) (v : Word) (i n : Nat) : (s.cruWriteBits a v i n).noIntCheck = s.noIntCheck := (bus_cruWriteBits s a v i n).noIntCheck
@[simp] theorem cruWriteBits_kbd (s : State) (a : CruAddr) (v : Word) (i n : Nat) : (s.cruWriteBits a v i n).kbd = s.kbd := (bus_cruWriteBits s a v i n).kbd
@[simp] theorem cruWriteBits_sched (s : State) (a : CruAddr) (v : Word) (i n : Nat) : (s.cruWriteBits a v i n).sched = s.sched := (bus_cruWriteBits s a v i n).sched
@[simp] theorem cruWriteBits_xChain (s : State) (a : CruAddr) (v : Word) (i n : Nat) : (s.cruWriteBits a v i n).xChain = s.xChain := (bus_cruWriteBits s a v i n).xChain

@[simp] theorem cruReadBits_md (s : State) (a : CruAddr) (v : Word) (i n : Nat) : (s.cruReadBits a v i n).2.md = s.md := (bus_cruReadBits s a v i n).md
@[simp] theorem cruReadBits_wp (s : State) (a : CruAddr) (v : Word) (i n : Nat) : (s.cruReadBits a v i n).2.wp = s.wp := (bus_cruReadBits s a v i n).wp
@[simp] theorem cruReadBits_st (s : State) (a : CruAddr) (v : Word) (i n : Nat) : (s.cruReadBits a v i n).2.st = s.st := (bus_cruReadBits s a v i n).st
@[simp] theorem cruReadBits_instPc (s : State) (a : CruAddr) (v : Word) (i n : Nat) : (s.cruReadBits a v i n).2.instPc = s.instPc := (bus_cruReadBits s a v i n).instPc
@[simp] theorem cruReadBits_run (s : State) (a : CruAddr) (v : Word) (i n : Nat) : (s.cruReadBits a v i n).2.run = s.run := (bus_cruReadBits s a v i n).run
@[simp] theorem cruReadBits_intPending (s : State) (a : CruAddr) (v : Word) (i n : Nat) : (s.cruReadBits a v i n).2.intPending = s.intPending := (bus_cruReadBits s a v i n).intPending
@[simp] theorem cruReadBits_noIntCheck (s : State) (a : CruAddr) (v : Word) (i n : Nat) : (s.cruReadBits a v i n).2.noIntCheck = s.noIntCheck := (bus_cruReadBits s a v i n).noIntCheck
@[simp] theorem cruReadBits_kbd (s : State) (a : CruAddr) (v : Word) (i n : Nat) : (s.cruReadBits a v i n).2.kbd = s.kbd := (bus_cruReadBits s a v i n).kbd
@[simp] theorem cruReadBits_sched (s : State) (a : CruAddr) (v : Word) (i n : Nat) : (s.cruReadBits a v i n).2.sched = s.sched := (bus_cruReadBits s a v i n).sched
@[simp] theorem cruReadBits_xChain (s : State) (a : CruAddr) (v : Word) (i n : Nat) : (s.cruReadBits a v i n).2.xChain = s.xChain := (bus_cruReadBits s a v i n).xChain

@[simp] theorem cruBase_md (s : State) : s.cruBase.2.md = s.md := (bus_cruBase s).md
@[simp] theorem cruBase_wp (s : State) : s.cruBase.2.wp = s.wp := (bus_cruBase s).wp
@[simp] theorem cruBase_st (s : State) : s.cruBase.2.st = s.st := (bus_cruBase s).st
@[simp] theorem cruBase_instPc (s : State) : s.cruBase.2.instPc = s.instPc := (bus_cruBase s).instPc
@[simp] theorem cruBase_run (s : State) : s.cruBase.2.run = s.run := (bus_cruBase s).run
@[simp] theorem cruBase_intPending (s : State) : s.cruBase.2.intPending = s.intPending := (bus_cruBase s).intPending
@[simp] theorem cruBase_noIntCheck (s : State) : s.cruBase.2.noIntCheck = s.noIntCheck := (bus_cruBase s).noIntCheck
@[simp] theorem cruBase_kbd (s : State) : s.cruBase.2.kbd = s.kbd := (bus_cruBase s).kbd
@[simp] theorem cruBase_sched (s : State) : s.cruBase.2.sched = s.sched := (bus_cruBase s).sched
@[simp] theorem cruBase_xChain (s : State) : s.cruBase.2.xChain = s.xChain := (bus_cruBase s).xChain

@[simp] theorem cruBitAddr_md (s : State) (disp : Byte) : (s.cruBitAddr disp).2.md = s.md := (bus_cruBitAddr s disp).md
@[simp] theorem cruBitAddr_wp (s : State) (disp : Byte) : (s.cruBitAddr disp).2.wp = s.wp := (bus_cruBitAddr s disp).wp
@[simp] theorem cruBitAddr_st (s : State) (disp : Byte) : (s.cruBitAddr disp).2.st = s.st := (bus_cruBitAddr s disp).st
@[simp] theorem cruBitAddr_instPc (s : State) (disp : Byte) : (s.cruBitAddr disp).2.instPc = s.instPc := (bus_cruBitAddr s disp).instPc
@[simp] theorem cruBitAddr_run (s : State) (disp : Byte) : (s.cruBitAddr disp).2.run = s.run := (bus_cruBitAddr s disp).run
@[simp] theorem cruBitAddr_intPending (s : State) (disp : Byte) : (s.cruBitAddr disp).2.intPending = s.intPending := (bus_cruBitAddr s disp).intPending
@[simp] theorem cruBitAddr_noIntCheck (s : State) (disp : Byte) : (s.cruBitAddr disp).2.noIntCheck = s.noIntCheck := (bus_cruBitAddr s disp).noIntCheck
@[simp] theorem cruBitAddr_kbd (s : State) (disp : Byte) : (s.cruBitAddr disp).2.kbd = s.kbd := (bus_cruBitAddr s disp).kbd
@[simp] theorem cruBitAddr_sched (s : State) (disp : Byte) : (s.cruBitAddr disp).2.sched = s.sched := (bus_cruBitAddr s disp).sched
@[simp] theorem cruBitAddr_xChain (s : State) (disp : Byte) : (s.cruBitAddr disp).2.xChain = s.xChain := (bus_cruBitAddr s disp).xChain

@[simp] theorem shiftCount_md (s : State) (c : BitVec 4) : (s.shiftCount c).2.md = s.md := (bus_shiftCount s c).md
@[simp] theorem shiftCount_wp (s : State) (c : BitVec 4) : (s.shiftCount c).2.wp = s.wp := (bus_shiftCount s c).wp
@[simp] theorem shiftCount_st (s : State) (c : BitVec 4) : (s.shiftCount c).2.st = s.st := (bus_shiftCount s c).st
@[simp] theorem shiftCount_instPc (s : State) (c : BitVec 4) : (s.shiftCount c).2.instPc = s.instPc := (bus_shiftCount s c).instPc
@[simp] theorem shiftCount_run (s : State) (c : BitVec 4) : (s.shiftCount c).2.run = s.run := (bus_shiftCount s c).run
@[simp] theorem shiftCount_intPending (s : State) (c : BitVec 4) : (s.shiftCount c).2.intPending = s.intPending := (bus_shiftCount s c).intPending
@[simp] theorem shiftCount_noIntCheck (s : State) (c : BitVec 4) : (s.shiftCount c).2.noIntCheck = s.noIntCheck := (bus_shiftCount s c).noIntCheck
@[simp] theorem shiftCount_kbd (s : State) (c : BitVec 4) : (s.shiftCount c).2.kbd = s.kbd := (bus_shiftCount s c).kbd
@[simp] theorem shiftCount_sched (s : State) (c : BitVec 4) : (s.shiftCount c).2.sched = s.sched := (bus_shiftCount s c).sched
@[simp] theorem shiftCount_xChain (s : State) (c : BitVec 4) : (s.shiftCount c).2.xChain = s.xChain := (bus_shiftCount s c).xChain

@[simp] theorem ea_md (s : State) (g : GA) (size : Size) : (s.ea g size).2.md = s.md := (bus_ea s g size).md
@[simp] theorem ea_wp (s : State) (g : GA) (size : Size) : (s.ea g size).2.wp = s.wp := (bus_ea s g size).wp
@[simp] theorem ea_st (s : State) (g : GA) (size : Size) : (s.ea g size).2.st = s.st := (bus_ea s g size).st
@[simp] theorem ea_instPc (s : State) (g : GA) (size : Size) : (s.ea g size).2.instPc = s.instPc := (bus_ea s g size).instPc
@[simp] theorem ea_run (s : State) (g : GA) (size : Size) : (s.ea g size).2.run = s.run := (bus_ea s g size).run
@[simp] theorem ea_intPending (s : State) (g : GA) (size : Size) : (s.ea g size).2.intPending = s.intPending := (bus_ea s g size).intPending
@[simp] theorem ea_noIntCheck (s : State) (g : GA) (size : Size) : (s.ea g size).2.noIntCheck = s.noIntCheck := (bus_ea s g size).noIntCheck
@[simp] theorem ea_kbd (s : State) (g : GA) (size : Size) : (s.ea g size).2.kbd = s.kbd := (bus_ea s g size).kbd
@[simp] theorem ea_sched (s : State) (g : GA) (size : Size) : (s.ea g size).2.sched = s.sched := (bus_ea s g size).sched
@[simp] theorem ea_xChain (s : State) (g : GA) (size : Size) : (s.ea g size).2.xChain = s.xChain := (bus_ea s g size).xChain

@[simp] theorem sourceWord_md (s : State) (g : GA) : (s.sourceWord g).2.md = s.md := (bus_sourceWord s g).md
@[simp] theorem sourceWord_wp (s : State) (g : GA) : (s.sourceWord g).2.wp = s.wp := (bus_sourceWord s g).wp
@[simp] theorem sourceWord_st (s : State) (g : GA) : (s.sourceWord g).2.st = s.st := (bus_sourceWord s g).st
@[simp] theorem sourceWord_instPc (s : State) (g : GA) : (s.sourceWord g).2.instPc = s.instPc := (bus_sourceWord s g).instPc
@[simp] theorem sourceWord_run (s : State) (g : GA) : (s.sourceWord g).2.run = s.run := (bus_sourceWord s g).run
@[simp] theorem sourceWord_intPending (s : State) (g : GA) : (s.sourceWord g).2.intPending = s.intPending := (bus_sourceWord s g).intPending
@[simp] theorem sourceWord_noIntCheck (s : State) (g : GA) : (s.sourceWord g).2.noIntCheck = s.noIntCheck := (bus_sourceWord s g).noIntCheck
@[simp] theorem sourceWord_kbd (s : State) (g : GA) : (s.sourceWord g).2.kbd = s.kbd := (bus_sourceWord s g).kbd
@[simp] theorem sourceWord_sched (s : State) (g : GA) : (s.sourceWord g).2.sched = s.sched := (bus_sourceWord s g).sched
@[simp] theorem sourceWord_xChain (s : State) (g : GA) : (s.sourceWord g).2.xChain = s.xChain := (bus_sourceWord s g).xChain

@[simp] theorem sourceByte_md (s : State) (g : GA) : (s.sourceByte g).2.md = s.md := (bus_sourceByte s g).md
@[simp] theorem sourceByte_wp (s : State) (g : GA) : (s.sourceByte g).2.wp = s.wp := (bus_sourceByte s g).wp
@[simp] theorem sourceByte_st (s : State) (g : GA) : (s.sourceByte g).2.st = s.st := (bus_sourceByte s g).st
@[simp] theorem sourceByte_instPc (s : State) (g : GA) : (s.sourceByte g).2.instPc = s.instPc := (bus_sourceByte s g).instPc
@[simp] theorem sourceByte_run (s : State) (g : GA) : (s.sourceByte g).2.run = s.run := (bus_sourceByte s g).run
@[simp] theorem sourceByte_intPending (s : State) (g : GA) : (s.sourceByte g).2.intPending = s.intPending := (bus_sourceByte s g).intPending
@[simp] theorem sourceByte_noIntCheck (s : State) (g : GA) : (s.sourceByte g).2.noIntCheck = s.noIntCheck := (bus_sourceByte s g).noIntCheck
@[simp] theorem sourceByte_kbd (s : State) (g : GA) : (s.sourceByte g).2.kbd = s.kbd := (bus_sourceByte s g).kbd
@[simp] theorem sourceByte_sched (s : State) (g : GA) : (s.sourceByte g).2.sched = s.sched := (bus_sourceByte s g).sched
@[simp] theorem sourceByte_xChain (s : State) (g : GA) : (s.sourceByte g).2.xChain = s.xChain := (bus_sourceByte s g).xChain

@[simp] theorem timerSample_md (s : State) : s.timerSample.md = s.md := (bus_timerSample s).md
@[simp] theorem timerSample_wp (s : State) : s.timerSample.wp = s.wp := (bus_timerSample s).wp
@[simp] theorem timerSample_st (s : State) : s.timerSample.st = s.st := (bus_timerSample s).st
@[simp] theorem timerSample_instPc (s : State) : s.timerSample.instPc = s.instPc := (bus_timerSample s).instPc
@[simp] theorem timerSample_run (s : State) : s.timerSample.run = s.run := (bus_timerSample s).run
@[simp] theorem timerSample_intPending (s : State) : s.timerSample.intPending = s.intPending := (bus_timerSample s).intPending
@[simp] theorem timerSample_noIntCheck (s : State) : s.timerSample.noIntCheck = s.noIntCheck := (bus_timerSample s).noIntCheck
@[simp] theorem timerSample_kbd (s : State) : s.timerSample.kbd = s.kbd := (bus_timerSample s).kbd
@[simp] theorem timerSample_sched (s : State) : s.timerSample.sched = s.sched := (bus_timerSample s).sched
@[simp] theorem timerSample_xChain (s : State) : s.timerSample.xChain = s.xChain := (bus_timerSample s).xChain

/-! ## The classifier table under the data bus: only a CRU write changes it (10_state.md R64) -/

@[simp] theorem react_tags (s : State) : s.react.tags = s.tags := by
  unfold State.react
  split
  · rfl
  · unfold State.applyReaction
    split <;> rfl

@[simp] theorem chargeBus_tags (s : State) (t : RegionTag) : (s.chargeBus t).tags = s.tags := by
  unfold State.chargeBus; split <;> rfl

@[simp] theorem readByte_tags (s : State) (a : Word) : (s.readByte a).2.tags = s.tags := by
  unfold State.readByte; dsimp only; split <;> (try split) <;> simp

@[simp] theorem readWord_tags (s : State) (a : Word) : (s.readWord a).2.tags = s.tags := by
  unfold State.readWord; dsimp only; split <;> (try split) <;> simp

@[simp] theorem storeHome_tags (s : State) (h : Home) (v : Byte) : (s.storeHome h v).tags = s.tags := by
  unfold State.storeHome; split <;> rfl

@[simp] theorem handleByte_tags (s : State) (a : Word) (v : Byte) : (s.handleByte a v).tags = s.tags := by
  unfold State.handleByte; split <;> simp [State.selectCart, State.devWrite]

@[simp] theorem handleWord_tags (s : State) (e v : Word) : (s.handleWord e v).tags = s.tags := by
  unfold State.handleWord; split <;> simp [State.selectCart, State.devWrite]

@[simp] theorem writeByte_tags (s : State) (a : Word) (v : Byte) : (s.writeByte a v).tags = s.tags := by
  unfold State.writeByte; dsimp only; split <;> simp

@[simp] theorem writeWord_tags (s : State) (a v : Word) : (s.writeWord a v).tags = s.tags := by
  unfold State.writeWord; dsimp only; split <;> simp

@[simp] theorem fetch_tags (s : State) : s.fetch.2.tags = s.tags := by simp [State.fetch]

@[simp] theorem readReg_tags (s : State) (i : Nat) : (s.readReg i).2.tags = s.tags := readWord_tags ..

@[simp] theorem writeReg_tags (s : State) (i : Nat) (v : Word) : (s.writeReg i v).tags = s.tags := writeWord_tags ..

@[simp] theorem readVector_tags (s : State) (v : Word) : (s.readVector v).2.tags = s.tags := by simp [State.readVector]

@[simp] theorem ea_tags (s : State) (g : GA) (size : Size) : (s.ea g size).2.tags = s.tags := by
  cases g <;> simp [State.ea]

@[simp] theorem sourceWord_tags (s : State) (g : GA) : (s.sourceWord g).2.tags = s.tags := by simp [State.sourceWord]

@[simp] theorem sourceByte_tags (s : State) (g : GA) : (s.sourceByte g).2.tags = s.tags := by simp [State.sourceByte]

@[simp] theorem matrixRow_tags (s : State) (r : Nat) : (s.matrixRow r).2.tags = s.tags := by
  unfold State.matrixRow; split <;> rfl

@[simp] theorem ioRead_tags (s : State) (p : Nat) : (s.ioRead p).2.tags = s.tags := by
  unfold State.ioRead; split
  · rfl
  · split
    · rfl
    · split <;> simp

@[simp] theorem pinRead_tags (s : State) (p : Nat) : (s.pinRead p).2.tags = s.tags := by
  unfold State.pinRead State.timerRead
  dsimp only
  split
  · split
    · rfl
    · split
      · rfl
      · split <;> simp [State.timerSample]
  · simp [State.timerSample]

@[simp] theorem cruRead_tags (s : State) (a : CruAddr) : (s.cruRead a).2.tags = s.tags := by
  unfold State.cruRead; split
  · simp
  · split
    · rfl
    · split <;> rfl

@[simp] theorem cruReadBits_tags (s : State) (a : CruAddr) (v : Word) (i n : Nat) :
    (s.cruReadBits a v i n).2.tags = s.tags := by
  induction n generalizing s v i with
  | zero => rfl
  | succ n ih => simp [State.cruReadBits, ih]

@[simp] theorem cruBase_tags (s : State) : s.cruBase.2.tags = s.tags := by simp [State.cruBase]

@[simp] theorem cruBitAddr_tags (s : State) (disp : Byte) : (s.cruBitAddr disp).2.tags = s.tags := by
  simp [State.cruBitAddr]

@[simp] theorem shiftCount_tags (s : State) (c : BitVec 4) : (s.shiftCount c).2.tags = s.tags := by
  unfold State.shiftCount; split <;> simp

end Sys2Proof.Machine
end

