-- ==== Sys2Proof/Laws/Access.lean ====
section
/-! SUPPORT. What reads leave of memory (20_memory.md R107), and what a store to RAM does to it (R106, R116, R117). -/

namespace Sys2Proof.Machine

/-- `t` holds the memory of `s`, laid out as in `s`. -/
structure State.SameMem (s t : State) : Prop where
  md : t.md = s.md
  mapper : t.mapper = s.mapper
  cartBank : t.cartBank = s.cartBank
  pool : t.pool = s.pool
  scratch : t.scratch = s.scratch
  tags : t.tags = s.tags

theorem State.SameMem.refl (s : State) : s.SameMem s := ⟨rfl, rfl, rfl, rfl, rfl, rfl⟩

theorem State.SameMem.trans {s t u : State} (h : s.SameMem t) (k : t.SameMem u) : s.SameMem u :=
  ⟨k.md.trans h.md, k.mapper.trans h.mapper, k.cartBank.trans h.cartBank, k.pool.trans h.pool,
    k.scratch.trans h.scratch, k.tags.trans h.tags⟩

theorem tagAt_eq (s : State) (a : Word) : s.tagAt a = s.granuleTag (a.toNat / 16) := rfl

/-- Every address carries its tag. -/
theorem State.SameMem.tagAt {s t : State} (h : s.SameMem t) (a : Word) : t.tagAt a = s.tagAt a := by
  simp only [State.tagAt, h.md, h.tags]

/-- Every address is backed as before. -/
theorem State.SameMem.home {s t : State} (h : s.SameMem t) (a : Word) : t.home a = s.home a := by
  simp only [State.home, h.tagAt, h.mapper, h.cartBank]

theorem State.SameMem.homeByte {s t : State} (h : s.SameMem t) (x : Home) : t.homeByte x = s.homeByte x := by
  cases x <;> simp [State.homeByte, h.md, h.mapper, h.pool, h.scratch]

/-- Every byte reads as before. -/
theorem State.SameMem.peek {s t : State} (h : s.SameMem t) (a : Word) : t.peek a = s.peek a := by
  rw [State.peek, State.peek, h.homeByte, h.home]

theorem State.SameMem.peekWord {s t : State} (h : s.SameMem t) (a : Word) : t.peekWord a = s.peekWord a := by
  rw [State.peekWord, State.peekWord, h.peek, h.peek]

/-! ## Retagging -/

/-- The two tags that a collaborator may exchange (20_memory.md R113). -/
def deviceWindow (t : RegionTag) : Prop := t = .dsr ∨ t = .disk

theorem granuleTag_setTag {s : State} (h : sparseWf (regionInit s.md) s.tags) (g m : Nat) (t : RegionTag) :
    (s.setTag g t).granuleTag m = if m = g then t else s.granuleTag m := sparseGet_set g m t h

theorem setTag_wf {s : State} (h : sparseWf (regionInit s.md) s.tags) (g : Nat) (t : RegionTag) :
    sparseWf (regionInit (s.setTag g t).md) (s.setTag g t).tags := sparseSet_wf g t h

/-- A retagging exchanges DSR and DISK and nothing else, and keeps the table's canonical form. -/
theorem retag_spec {s : State} (h : sparseWf (regionInit s.md) s.tags) (disk : Bool) (lo hi : Nat) :
    sparseWf (regionInit (s.retag disk lo hi).md) (s.retag disk lo hi).tags ∧
    ∀ m, (s.retag disk lo hi).granuleTag m = s.granuleTag m ∨
      deviceWindow (s.granuleTag m) ∧ deviceWindow ((s.retag disk lo hi).granuleTag m) := by
  unfold State.retag
  generalize List.filter _ _ = l
  induction l generalizing s with
  | nil => exact ⟨h, fun _ => .inl rfl⟩
  | cons g l ih =>
    rw [List.foldl_cons]
    by_cases hg : sparseGet (regionInit s.md) s.tags g = .dsr ∨ sparseGet (regionInit s.md) s.tags g = .disk
    · rw [if_pos hg]
      obtain ⟨h1, h2⟩ := ih (setTag_wf h g (if disk then .disk else .dsr))
      refine ⟨h1, fun m => ?_⟩
      by_cases hm : m = g
      · subst hm
        have ht := granuleTag_setTag h m m (if disk then .disk else .dsr)
        rw [if_pos rfl] at ht
        refine .inr ⟨hg, ?_⟩
        rcases h2 m with k | k
        · rw [k, ht]; cases disk
          · exact .inl rfl
          · exact .inr rfl
        · exact k.2
      · have ht := granuleTag_setTag h g m (if disk then .disk else .dsr)
        rw [if_neg hm] at ht
        rw [← ht]; exact h2 m
    · rw [if_neg hg]
      exact ih h

/-! ## Reads -/

theorem sameMem_react (s : State) : s.SameMem s.react := by
  unfold State.react
  split
  · exact .refl s
  · rename_i r rest _
    cases r <;> exact ⟨rfl, rfl, rfl, rfl, rfl, rfl⟩

theorem sameMem_chargeBus (s : State) (t : RegionTag) : s.SameMem (s.chargeBus t) := by
  unfold State.chargeBus
  split <;> exact ⟨rfl, rfl, rfl, rfl, rfl, rfl⟩

theorem sameMem_devRead (s : State) (c : Bool) (t : RegionTag) (e : Event) :
    s.SameMem (if c then ((s.chargeBus t).log e).react else s.chargeBus t).nextDraw := by
  have h1 := sameMem_chargeBus s t
  split
  · have h2 := sameMem_react ((s.chargeBus t).log e)
    exact ⟨h2.md.trans h1.md, h2.mapper.trans h1.mapper, h2.cartBank.trans h1.cartBank, h2.pool.trans h1.pool,
      h2.scratch.trans h1.scratch, h2.tags.trans h1.tags⟩
  · exact ⟨h1.md, h1.mapper, h1.cartBank, h1.pool, h1.scratch, h1.tags⟩

/-- A byte read leaves memory alone. -/
theorem sameMem_readByte (s : State) (a : Word) : s.SameMem (s.readByte a).2 := by
  unfold State.readByte
  split
  · exact sameMem_chargeBus s _
  · exact sameMem_devRead s _ _ _

/-- A word read leaves memory alone. -/
theorem sameMem_readWord (s : State) (a : Word) : s.SameMem (s.readWord a).2 := by
  unfold State.readWord
  dsimp only
  split
  · exact sameMem_chargeBus s _
  · exact sameMem_devRead s _ _ _

theorem sameMem_readReg (s : State) (i : Nat) : s.SameMem (s.readReg i).2 := sameMem_readWord s _

theorem sameMem_fetch (s : State) : s.SameMem s.fetch.2 := by
  have h := sameMem_readWord s s.pc
  exact ⟨h.md, h.mapper, h.cartBank, h.pool, h.scratch, h.tags⟩

/-- A read of a byte that memory holds: the byte, and only the penalty. -/
theorem readByte_of_peek {s : State} {a : Word} {b : Byte} (h : s.peek a = some b) :
    s.readByte a = (b, s.chargeBus (s.tagAt a)) := by simp [State.readByte, h]

theorem readWord_of_peek {s : State} {a v : Word} (h : s.peekWord (evenAddr a) = some v) :
    s.readWord a = (v, s.chargeBus (s.tagAt (evenAddr a))) := by simp [State.readWord, h]

/-! ## The controller under data-bus accesses: only a request may move (60_exceptions.md R427) -/

/-- `d` is `c` but for its requests and their count. -/
structure Controller.SameLines (c d : Controller) : Prop where
  timerMode : d.timerMode = c.timerMode
  en : d.en = c.en
  clock : d.clock = c.clock
  dec : d.dec = c.dec
  tBase : d.tBase = c.tBase
  tDelta : d.tDelta = c.tDelta
  col : d.col = c.col
  caps : d.caps = c.caps

theorem Controller.SameLines.refl (c : Controller) : c.SameLines c := ⟨rfl, rfl, rfl, rfl, rfl, rfl, rfl, rfl⟩

theorem Controller.SameLines.trans {c d e : Controller} (h : c.SameLines d) (k : d.SameLines e) : c.SameLines e :=
  ⟨k.timerMode.trans h.timerMode, k.en.trans h.en, k.clock.trans h.clock, k.dec.trans h.dec, k.tBase.trans h.tBase,
    k.tDelta.trans h.tDelta, k.col.trans h.col, k.caps.trans h.caps⟩

theorem sameLines_raise (c : Controller) (p : Nat) : c.SameLines (c.raise p) := by
  unfold Controller.raise; split <;> exact ⟨rfl, rfl, rfl, rfl, rfl, rfl, rfl, rfl⟩

theorem sameLines_clear (c : Controller) (p : Nat) : c.SameLines (c.clear p) := by
  unfold Controller.clear; split <;> exact ⟨rfl, rfl, rfl, rfl, rfl, rfl, rfl, rfl⟩

theorem sameLines_react (s : State) : s.io.SameLines s.react.io := by
  unfold State.react
  split
  · exact .refl _
  · rename_i r rest _
    cases r with
    | quiet => exact .refl _
    | raise p => exact sameLines_raise _ p
    | clear p => exact sameLines_clear _ p

theorem chargeBus_io (s : State) (t : RegionTag) : (s.chargeBus t).io = s.io := by
  unfold State.chargeBus; split <;> rfl

theorem sameLines_devRead (s : State) (c : Bool) (t : RegionTag) (e : Event) :
    s.io.SameLines (if c then ((s.chargeBus t).log e).react else s.chargeBus t).nextDraw.io := by
  split
  · have := sameLines_react ((s.chargeBus t).log e)
    rw [log_io, chargeBus_io] at this
    exact this
  · rw [nextDraw_io, chargeBus_io]; exact .refl _

theorem sameLines_readByte (s : State) (a : Word) : s.io.SameLines (s.readByte a).2.io := by
  unfold State.readByte
  split
  · rw [chargeBus_io]; exact .refl _
  · exact sameLines_devRead s _ _ _

theorem sameLines_readWord (s : State) (a : Word) : s.io.SameLines (s.readWord a).2.io := by
  unfold State.readWord
  dsimp only
  split
  · rw [chargeBus_io]; exact .refl _
  · exact sameLines_devRead s _ _ _

theorem storeHome_io (s : State) (x : Home) (v : Byte) : (s.storeHome x v).io = s.io := by cases x <;> rfl

theorem sameLines_handleByte (s : State) (a : Word) (v : Byte) : s.io.SameLines (s.handleByte a v).io := by
  unfold State.handleByte
  split
  all_goals first
    | exact .refl _
    | (rw [storeHome_io]; exact .refl _)
    | exact sameLines_react (s.log _)

theorem sameLines_handleWord (s : State) (e v : Word) : s.io.SameLines (s.handleWord e v).io := by
  unfold State.handleWord
  split
  all_goals first
    | exact .refl _
    | (rw [storeHome_io, storeHome_io]; exact .refl _)
    | exact sameLines_react (s.log _)

theorem sameLines_writeByte (s : State) (a : Word) (v : Byte) : s.io.SameLines (s.writeByte a v).io := by
  unfold State.writeByte
  dsimp only
  refine .trans ?_ (sameLines_handleByte _ _ _)
  rw [chargeBus_io]
  split
  · exact sameLines_readByte s a
  · exact .refl _

theorem sameLines_writeWord (s : State) (a v : Word) : s.io.SameLines (s.writeWord a v).io := by
  unfold State.writeWord
  dsimp only
  refine .trans ?_ (sameLines_handleWord _ _ _)
  rw [chargeBus_io]
  split
  · exact sameLines_readWord s a
  · exact .refl _

/-! ## RAM -/

/-- An address that RAM backs: scratchpad or expansion RAM (20_memory.md R116, R117). -/
def State.ramAt (s : State) (a : Word) : Prop := s.tagAt a = .scratch ∨ s.tagAt a = .expRam

theorem home_ram {s : State} {a : Word} (h : s.ramAt a) :
    s.home a = .scratch (a.toNat % 256) ∨
      s.home a = .pool (s.mapper.bankOf (regionOf a) * 4096 + a.toNat % 4096) := by
  rcases h with h | h <;> simp [State.home, h]

theorem peek_ram {s : State} {a : Word} (h : s.ramAt a) : ∃ b, s.peek a = some b := by
  rw [State.peek]
  rcases home_ram h with h | h <;> rw [h] <;> exact ⟨_, rfl⟩

/-- The two bytes of a word lie in one granule, so in one region (20_memory.md R114). -/
theorem tagAt_succ (s : State) {e : Word} (h : e.getLsbD 0 = false) : s.tagAt (e + 1) = s.tagAt e := by
  rw [even_iff] at h
  rw [tagAt_eq, tagAt_eq]
  congr 1
  simp [BitVec.toNat_add]
  omega

theorem ramAt_succ {s : State} {e : Word} (he : e.getLsbD 0 = false) (h : s.ramAt e) : s.ramAt (e + 1) := by
  unfold State.ramAt
  rw [tagAt_succ s he]
  exact h

theorem regionOf_eq (a : Word) : (regionOf a).toNat = a.toNat / 4096 := by
  have := a.isLt
  simp [regionOf, BitVec.extractLsb'_toNat, Nat.shiftRight_eq_div_pow]
  omega

theorem regionOf_succ {e : Word} (h : e.getLsbD 0 = false) : regionOf (e + 1) = regionOf e := by
  rw [even_iff] at h
  apply BitVec.eq_of_toNat_eq
  rw [regionOf_eq, regionOf_eq]
  have := e.isLt
  simp [BitVec.toNat_add]
  omega

theorem home_succ_ne {s : State} {e : Word} (he : e.getLsbD 0 = false) (h : s.ramAt e) : s.home (e + 1) ≠ s.home e := by
  have hn : (e + 1).toNat = e.toNat + 1 := by
    rw [even_iff] at he
    have := e.isLt
    simp [BitVec.toNat_add]
    omega
  have h2 := (even_iff e).mp he
  rcases h with h | h
  · rw [State.home, State.home, tagAt_succ s he, h, hn]
    simp only [ne_eq, Home.scratch.injEq]
    omega
  · rw [State.home, State.home, tagAt_succ s he, h, hn, regionOf_succ he]
    simp only [ne_eq, Home.pool.injEq]
    omega

/-- Whether a home is a byte of RAM. -/
def Home.ram : Home → Prop
  | .scratch _ | .pool _ => True
  | .console _ | .cart _ | .page _ _ | .port _ => False

theorem ram_home {s : State} {a : Word} (h : s.ramAt a) : (s.home a).ram := by
  rcases home_ram h with h | h <;> rw [h] <;> trivial

theorem home_storeHome (s : State) (x : Home) (v : Byte) (a : Word) : (s.storeHome x v).home a = s.home a := by
  cases x <;> rfl

theorem tagAt_storeHome (s : State) (x : Home) (v : Byte) (a : Word) : (s.storeHome x v).tagAt a = s.tagAt a := by
  cases x <;> rfl

/-- A store to a home changes nothing but RAM. -/
theorem storeHome_eq (s : State) (x : Home) (v : Byte) :
    s.storeHome x v = { s with pool := (s.storeHome x v).pool, scratch := (s.storeHome x v).scratch } := by cases x <;> rfl

/-- What a store does to each byte. -/
theorem homeByte_storeHome {s : State} {x : Home} (hs : s.scratch.wf) (hp : s.pool.wf) (hx : x.ram) (v : Byte) (y : Home) :
    (s.storeHome x v).homeByte y = if y = x then some v else s.homeByte y := by
  cases x with
  | scratch off =>
    cases y with
    | scratch k =>
      by_cases hk : k = off
      · subst hk; simp [State.homeByte, State.storeHome, Memory.read_write_self _ _ hs]
      · simp [State.homeByte, State.storeHome, hk, Memory.read_write_other _ hk]
    | _ => rfl
  | pool off =>
    cases y with
    | pool k =>
      by_cases hk : k = off
      · subst hk; simp [State.homeByte, State.storeHome, Memory.read_write_self _ _ hp]
      · simp [State.homeByte, State.storeHome, hk, Memory.read_write_other _ hk]
    | _ => rfl
  | console off => exact hx.elim
  | cart off => exact hx.elim
  | page r low => exact hx.elim
  | port t => exact hx.elim

theorem peek_storeHome {s : State} {x : Home} (hs : s.scratch.wf) (hp : s.pool.wf) (hx : x.ram) (v : Byte) (a : Word) :
    (s.storeHome x v).peek a = if s.home a = x then some v else s.peek a := by
  rw [State.peek, home_storeHome, homeByte_storeHome hs hp hx]; rfl

theorem storeHome_wf {s : State} (x : Home) (v : Byte) (hs : s.scratch.wf) (hp : s.pool.wf) :
    (s.storeHome x v).scratch.wf ∧ (s.storeHome x v).pool.wf := by
  cases x with
  | scratch off => exact ⟨Memory.wf_write _ _ hs, hp⟩
  | pool off => exact ⟨hs, Memory.wf_write _ _ hp⟩
  | _ => exact ⟨hs, hp⟩

/-- The cycles a store to a granule of tag `t` costs: one penalty, two when the store reads first (R106, R122). -/
def State.chargeStore (s : State) (t : RegionTag) : State :=
  (if s.md.readBeforeWrite then s.chargeBus t else s).chargeBus t

/-- The penalty is time and nothing else (20_memory.md R122). -/
theorem chargeBus_addCycles (s : State) (t : RegionTag) :
    s.chargeBus t = s.addCycles (if is8Bit s.md t then s.md.wait8 else 0) := by
  unfold State.chargeBus
  split <;> rfl

theorem chargeBus_eq (s : State) (t : RegionTag) : ∃ n, s.chargeBus t = s.addCycles n := ⟨_, chargeBus_addCycles s t⟩

theorem addCycles_add (s : State) (m n : Nat) : (s.addCycles m).addCycles n = s.addCycles (m + n) := by
  simp [State.addCycles, Nat.add_assoc]

theorem chargeStore_addCycles (s : State) (t : RegionTag) :
    s.chargeStore t =
      s.addCycles ((if s.md.readBeforeWrite then 2 else 1) * (if is8Bit s.md t then s.md.wait8 else 0)) := by
  unfold State.chargeStore
  split
  · rw [chargeBus_addCycles, chargeBus_addCycles, addCycles_add, addCycles_md, Nat.two_mul]
  · rw [chargeBus_addCycles, Nat.one_mul]

theorem chargeStore_eq (s : State) (t : RegionTag) : ∃ n, s.chargeStore t = s.addCycles n := ⟨_, chargeStore_addCycles s t⟩

@[simp] theorem tagAt_addCycles (s : State) (n : Nat) (a : Word) : (s.addCycles n).tagAt a = s.tagAt a := rfl
@[simp] theorem home_addCycles (s : State) (n : Nat) (a : Word) : (s.addCycles n).home a = s.home a := rfl
@[simp] theorem peek_addCycles (s : State) (n : Nat) (a : Word) : (s.addCycles n).peek a = s.peek a := by
  unfold State.peek State.homeByte; rfl
@[simp] theorem peekWord_addCycles (s : State) (n : Nat) (a : Word) : (s.addCycles n).peekWord a = s.peekWord a := by
  simp [State.peekWord]

@[simp] theorem tagAt_chargeBus (s : State) (t : RegionTag) (a : Word) : (s.chargeBus t).tagAt a = s.tagAt a := by
  obtain ⟨n, h⟩ := chargeBus_eq s t; rw [h]; rfl
@[simp] theorem home_chargeBus (s : State) (t : RegionTag) (a : Word) : (s.chargeBus t).home a = s.home a := by
  obtain ⟨n, h⟩ := chargeBus_eq s t; rw [h]; rfl
@[simp] theorem peek_chargeBus (s : State) (t : RegionTag) (a : Word) : (s.chargeBus t).peek a = s.peek a := by
  obtain ⟨n, h⟩ := chargeBus_eq s t; rw [h]; simp
@[simp] theorem peekWord_chargeBus (s : State) (t : RegionTag) (a : Word) : (s.chargeBus t).peekWord a = s.peekWord a := by
  simp [State.peekWord]

/-- A byte store to RAM is the byte stored and time. -/
theorem writeByte_ram {s : State} {a : Word} (h : s.ramAt a) (v : Byte) :
    s.writeByte a v = (s.chargeStore (s.tagAt a)).storeHome (s.home a) v := by
  obtain ⟨b, hb⟩ := peek_ram h
  unfold State.writeByte State.chargeStore
  simp only [readByte_of_peek hb]
  rcases h with h | h <;> split <;> simp [State.handleByte, h]

theorem peekWord_ram {s : State} {e : Word} (he : e.getLsbD 0 = false) (h : s.ramAt e) : ∃ v, s.peekWord e = some v := by
  obtain ⟨b, hb⟩ := peek_ram h
  obtain ⟨c, hc⟩ := peek_ram (ramAt_succ he h)
  exact ⟨_, by rw [State.peekWord, hb, hc]⟩

/-- A word store to RAM is the two bytes stored and time. -/
theorem writeWord_ram {s : State} {a : Word} (h : s.ramAt (evenAddr a)) (v : Word) :
    s.writeWord a v = ((s.chargeStore (s.tagAt (evenAddr a))).storeHome (s.home (evenAddr a)) (hiByte v)).storeHome
      (s.home (evenAddr a + 1)) (loByte v) := by
  obtain ⟨w, hw⟩ := peekWord_ram (evenAddr_bit0 a) h
  unfold State.writeWord State.chargeStore
  simp only [readWord_of_peek hw]
  rcases h with h | h <;> split <;> simp [State.handleWord, h]

/-- After a word store to RAM each byte reads as the rule says. -/
theorem peek_writeWord_ram {s : State} {a : Word} (hs : s.scratch.wf) (hp : s.pool.wf) (h : s.ramAt (evenAddr a))
    (v b : Word) :
    (s.writeWord a v).peek b = if s.home b = s.home (evenAddr a + 1) then some (loByte v)
      else if s.home b = s.home (evenAddr a) then some (hiByte v) else s.peek b := by
  obtain ⟨n, hn⟩ := chargeStore_eq s (s.tagAt (evenAddr a))
  rw [writeWord_ram h, hn]
  have h1 := storeHome_wf (s := s.addCycles n) (s.home (evenAddr a)) (hiByte v) hs hp
  rw [peek_storeHome h1.1 h1.2 (ram_home (ramAt_succ (evenAddr_bit0 a) h)),
    peek_storeHome (s := s.addCycles n) hs hp (ram_home h), home_storeHome]
  simp

theorem peek_writeByte_ram {s : State} {a : Word} (hs : s.scratch.wf) (hp : s.pool.wf) (h : s.ramAt a) (v : Byte) (b : Word) :
    (s.writeByte a v).peek b = if s.home b = s.home a then some v else s.peek b := by
  obtain ⟨n, hn⟩ := chargeStore_eq s (s.tagAt a)
  rw [writeByte_ram h, hn, peek_storeHome (s := s.addCycles n) hs hp (ram_home h)]
  simp

/-- A read after a write to the same word of RAM. -/
theorem peekWord_writeWord_ram {s : State} {a : Word} (hs : s.scratch.wf) (hp : s.pool.wf) (h : s.ramAt (evenAddr a))
    (v : Word) : (s.writeWord a v).peekWord (evenAddr a) = some v := by
  rw [State.peekWord, peek_writeWord_ram hs hp h, peek_writeWord_ram hs hp h]
  rw [if_neg (fun e => home_succ_ne (evenAddr_bit0 a) h e.symm), if_pos rfl, if_pos rfl]
  simp [joinBytes_hi_lo]

end Sys2Proof.Machine
end

