-- ==== Sys2Proof/Laws/Invariant.lean ====
section
/-! SUPPORT. Every shared operation keeps the machine's invariants (Safety.lean). -/

namespace Sys2Proof.Machine

/-! ## The controller -/

/-- What the invariants say of the controller at cycle count `now`. -/
structure Controller.Ok (c : Controller) (now : Nat) : Prop where
  intCount : c.intCount = activePins c.req c.en
  reqPins : c.req &&& 0xFFFF0001#32 = 0
  enPins : c.en &&& 0xFFFF0001#32 = 0
  timerBase : c.tBase ≤ now
  timerDelta : c.tDelta ≤ (now - c.tBase) / 64

theorem pins_iff (v : BitVec 32) : v &&& 0xFFFF0001#32 = 0 ↔ ∀ j, j < 32 → (j = 0 ∨ 16 ≤ j) → v.getLsbD j = false := by
  have m : ∀ k : Fin 32, BitVec.getLsbD (0xFFFF0001#32) k.val = (decide (k.val = 0) || decide (16 ≤ k.val)) := by decide
  constructor
  · intro h j hj ho
    have := congrArg (fun x : BitVec 32 => x.getLsbD j) h
    simp only [BitVec.getLsbD_and] at this
    rw [m ⟨j, hj⟩] at this
    have ht : (decide (j = 0) || decide (16 ≤ j)) = true := by simpa using ho
    rw [ht] at this
    simpa using this
  · intro h
    apply BitVec.eq_of_getLsbD_eq
    intro i hi
    simp only [BitVec.getLsbD_and]
    rw [m ⟨i, hi⟩]
    by_cases ho : i = 0 ∨ 16 ≤ i
    · rw [h i hi ho]; simp
    · have : (decide (i = 0) || decide (16 ≤ i)) = false := by simpa using ho
      rw [this]; simp

theorem pins_setBit {v : BitVec 32} {p : Nat} (b : Bool) (h : v &&& 0xFFFF0001#32 = 0) (hp : canRequest p) :
    setBit v p b &&& 0xFFFF0001#32 = 0 := by
  rw [pins_iff] at *
  intro j hj ho
  simp [canRequest] at hp
  rw [setBit_getLsbD, if_neg (by omega)]
  exact h j hj ho

/-- How the count of active pins moves when one pin does. -/
theorem activePins_congr {req en req' en' : BitVec 32}
    (h : ∀ p, 1 ≤ p → p ≤ 15 → (req'.getLsbD p && en'.getLsbD p) = (req.getLsbD p && en.getLsbD p)) :
    activePins req' en' = activePins req en := by
  unfold activePins
  congr 1
  apply List.filter_congr
  intro p hp
  simp only [List.mem_cons, List.not_mem_nil, or_false] at hp
  exact h p (by omega) (by omega)

theorem filter_flip_length (l : List Nat) (f g : Nat → Bool) (p : Nat) (hn : l.Nodup) (hp : p ∈ l)
    (hf : f p = false) (hg : g p = true) (h : ∀ q, q ≠ p → f q = g q) :
    (l.filter g).length = (l.filter f).length + 1 := by
  induction l with
  | nil => simp at hp
  | cons q l ih =>
    rw [List.nodup_cons] at hn
    by_cases hq : q = p
    · subst hq
      have : l.filter g = l.filter f := by
        apply List.filter_congr
        intro x hx
        exact (h x (fun e => hn.1 (e ▸ hx))).symm
      simp [hf, hg, this]
    · have hp' : p ∈ l := by
        rcases List.mem_cons.mp hp with e | e
        · exact absurd e.symm hq
        · exact e
      have hi := ih hn.2 hp'
      have := h q hq
      by_cases hfq : f q = true
      · rw [List.filter_cons_of_pos hfq, List.filter_cons_of_pos (this ▸ hfq)]
        simp [hi]
      · rw [List.filter_cons_of_neg hfq, List.filter_cons_of_neg (this ▸ hfq)]
        exact hi

theorem activePins_flip {req en req' en' : BitVec 32} {p : Nat} (hp : 1 ≤ p ∧ p ≤ 15)
    (h0 : (req.getLsbD p && en.getLsbD p) = false) (h1 : (req'.getLsbD p && en'.getLsbD p) = true)
    (h : ∀ q, q ≠ p → (req.getLsbD q && en.getLsbD q) = (req'.getLsbD q && en'.getLsbD q)) :
    activePins req' en' = activePins req en + 1 := by
  unfold activePins
  apply filter_flip_length _ (fun q => req.getLsbD q && en.getLsbD q) (fun q => req'.getLsbD q && en'.getLsbD q) p
    (by decide) _ h0 h1 h
  simp only [List.mem_cons, List.not_mem_nil, or_false]
  omega

theorem Controller.Ok.raise {c : Controller} {now : Nat} (h : c.Ok now) (p : Nat) : (c.raise p).Ok now := by
  unfold Controller.raise
  split
  · rename_i hc
    simp only [Bool.and_eq_true, Bool.not_eq_true'] at hc
    obtain ⟨hp, hr⟩ := hc
    have hp' : 1 ≤ p ∧ p ≤ 15 := by simpa [canRequest] using hp
    refine ⟨?_, pins_setBit _ h.reqPins hp, h.enPins, h.timerBase, h.timerDelta⟩
    dsimp only
    by_cases he : c.en.getLsbD p = true
    · have := activePins_flip hp' (req := c.req) (en := c.en) (req' := setBit c.req p true) (en' := c.en)
        (by simp only [hr, Bool.false_and]) (by rw [setBit_getLsbD, if_pos (by omega), he]; rfl)
        (by intro q hq; rw [setBit_getLsbD, if_neg (by omega)])
      rw [if_pos he, h.intCount, this]
    · rw [if_neg he, h.intCount]
      refine (activePins_congr ?_).symm
      intro q h1 h2
      rw [setBit_getLsbD]
      split
      · rename_i hq
        rw [hq.1]; simp only [Bool.not_eq_true] at he; simp only [he, Bool.and_false]
      · rfl
  · exact h

theorem Controller.Ok.clear {c : Controller} {now : Nat} (h : c.Ok now) (p : Nat) : (c.clear p).Ok now := by
  unfold Controller.clear
  split
  · rename_i hc
    simp only [Bool.and_eq_true] at hc
    obtain ⟨hp, hr⟩ := hc
    have hp' : 1 ≤ p ∧ p ≤ 15 := by simpa [canRequest] using hp
    refine ⟨?_, pins_setBit _ h.reqPins hp, h.enPins, h.timerBase, h.timerDelta⟩
    dsimp only
    by_cases he : c.en.getLsbD p = true
    · have := activePins_flip hp' (req := setBit c.req p false) (en := c.en) (req' := c.req) (en' := c.en)
        (by rw [setBit_getLsbD, if_pos (by omega)]; rfl) (by simp only [hr, he, Bool.and_true])
        (by intro q hq; rw [setBit_getLsbD, if_neg (by omega)])
      rw [if_pos he, h.intCount, this]
      rfl
    · rw [if_neg he, h.intCount]
      refine (activePins_congr ?_).symm
      intro q h1 h2
      rw [setBit_getLsbD]
      split
      · rename_i hq
        rw [hq.1]; simp only [Bool.not_eq_true] at he; simp only [he, Bool.and_false]
      · rfl
  · exact h

theorem Controller.Ok.setEn {c : Controller} {now : Nat} (h : c.Ok now) (p : Nat) (b : Bool) : (c.setEn p b).Ok now := by
  unfold Controller.setEn
  split
  · rename_i hc
    simp only [Bool.and_eq_true, bne_iff_ne, ne_eq] at hc
    obtain ⟨hp, hr⟩ := hc
    have hp' : 1 ≤ p ∧ p ≤ 15 := by simpa [canRequest] using hp
    refine ⟨?_, h.reqPins, pins_setBit _ h.enPins hp, h.timerBase, h.timerDelta⟩
    dsimp only
    by_cases he : c.req.getLsbD p = true
    · rw [if_pos he]
      cases b with
      | true =>
        have hr' : c.en.getLsbD p = false := by simpa using hr
        have := activePins_flip hp' (req := c.req) (en := c.en) (req' := c.req) (en' := setBit c.en p true)
          (by simp only [hr', Bool.and_false]) (by rw [setBit_getLsbD, if_pos (by omega), he]; rfl)
          (by intro q hq; rw [setBit_getLsbD, if_neg (by omega)])
        rw [if_pos rfl, h.intCount, this]
      | false =>
        have hr' : c.en.getLsbD p = true := by simpa using hr
        have := activePins_flip hp' (req := c.req) (en := setBit c.en p false) (req' := c.req) (en' := c.en)
          (by rw [setBit_getLsbD, if_pos (by omega), Bool.and_false]) (by simp only [hr', he, Bool.and_true])
          (by intro q hq; rw [setBit_getLsbD, if_neg (by omega)])
        rw [if_neg (by simp), h.intCount, this]
        rfl
    · rw [if_neg he, h.intCount]
      refine (activePins_congr ?_).symm
      intro q h1 h2
      rw [setBit_getLsbD]
      split
      · rename_i hq
        rw [hq.1]; simp only [Bool.not_eq_true] at he; simp only [he, Bool.false_and]
      · rfl
  · exact h

theorem Controller.raise_tBase (c : Controller) (p : Nat) : (c.raise p).tBase = c.tBase := by
  unfold Controller.raise; split <;> rfl

theorem Controller.raise_tDelta (c : Controller) (p : Nat) : (c.raise p).tDelta = c.tDelta := by
  unfold Controller.raise; split <;> rfl

theorem Controller.Ok.later {c : Controller} {now later : Nat} (h : c.Ok now) (hl : now ≤ later) : c.Ok later :=
  ⟨h.intCount, h.reqPins, h.enPins, Nat.le_trans h.timerBase hl,
    Nat.le_trans h.timerDelta (Nat.div_le_div_right (by omega))⟩

theorem Controller.Ok.timerSample {c : Controller} {now : Nat} (h : c.Ok now) : (c.timerSample now).Ok now := by
  have h1 : ({ c with tDelta := (now - c.tBase) / 64 } : Controller).Ok now :=
    ⟨h.intCount, h.reqPins, h.enPins, h.timerBase, Nat.le_refl _⟩
  unfold Controller.timerSample
  split
  · exact h
  · dsimp only
    split
    · exact h1
    · split
      · exact ⟨h1.intCount, h1.reqPins, h1.enPins, h1.timerBase, h1.timerDelta⟩
      · have h2 := h1.raise 3
        exact ⟨h2.intCount, h2.reqPins, h2.enPins, h2.timerBase, h2.timerDelta⟩

theorem Controller.Ok.ioWrite {c : Controller} {now : Nat} (h : c.Ok now) (p : Nat) (b : Bool) : (c.ioWrite p b).Ok now := by
  unfold Controller.ioWrite
  split
  · exact ⟨h.intCount, h.reqPins, h.enPins, h.timerBase, h.timerDelta⟩
  · split
    · exact (h.setEn 3 b).clear 3
    · split
      · exact h.setEn p b
      · split
        · exact ⟨h.intCount, h.reqPins, h.enPins, h.timerBase, h.timerDelta⟩
        · split
          · exact ⟨h.intCount, h.reqPins, h.enPins, h.timerBase, h.timerDelta⟩
          · exact h

theorem Controller.Ok.softReset {c : Controller} {now : Nat} (h : c.Ok now) : c.softReset.Ok now := by
  unfold Controller.softReset
  generalize ([1, 2, 3, 4, 5, 6, 7, 8, 9, 10, 11, 12, 13, 14, 15] : List Nat) = l
  induction l generalizing c with
  | nil => exact h
  | cons p l ih => exact ih (h.setEn p false)

theorem Controller.Ok.timerWrite {c : Controller} {now : Nat} (h : c.Ok now) (p : Nat) (b : Bool) :
    (c.timerWrite p b now).Ok now := by
  unfold Controller.timerWrite
  split
  · exact ⟨h.intCount, h.reqPins, h.enPins, h.timerBase, h.timerDelta⟩
  · split
    · exact ⟨h.intCount, h.reqPins, h.enPins, Nat.le_refl _, Nat.zero_le _⟩
    · split
      · split
        · exact h
        · exact h.softReset
      · have h1 : ({ c with timerMode := false } : Controller).Ok now :=
          ⟨h.intCount, h.reqPins, h.enPins, h.timerBase, h.timerDelta⟩
        exact h1.ioWrite p b

theorem Controller.Ok.pinWrite {c : Controller} {now : Nat} (h : c.Ok now) (p : Nat) (b : Bool) :
    (c.pinWrite p b now).Ok now := by
  unfold Controller.pinWrite
  split
  · exact h.timerWrite p b
  · exact h.ioWrite p b

theorem State.Inv.ok {s : State} (h : s.Inv) : s.io.Ok s.cycles :=
  ⟨h.intCount, h.reqPins, h.enPins, h.timerBase, h.timerDelta⟩

/-! ## The mapper -/

/-- What the invariants say of the mapper. -/
structure Mapper.Ok (m : Mapper) (md : Descriptor) : Prop where
  bankBound : ∀ r : Fin 16, m.bank[r] < md.banks
  bankIdentity : m.active = false → ∀ r ∈ md.swappable, m.bank[r] = r.val % md.banks

theorem Mapper.install_bank (m : Mapper) (md : Descriptor) (r q : Fin 16) :
    (m.install md r).bank[q] = if r = q then samsIndex md m.reqw[r] % md.banks else m.bank[q] := by
  simp only [Mapper.install, Fin.getElem_fin, Vector.getElem_set]
  simp only [Fin.ext_iff]

theorem Mapper.identity_bank (m : Mapper) (md : Descriptor) (r q : Fin 16) :
    (m.identity md r).bank[q] = if r = q then r.val % md.banks else m.bank[q] := by
  simp only [Mapper.identity, Fin.getElem_fin, Vector.getElem_set]
  simp only [Fin.ext_iff]

theorem Mapper.Ok.pageWrite {m : Mapper} {md : Descriptor} (h : m.Ok md) (hb : 16 ≤ md.banks) (r : BitVec 4) (v : Word) :
    (m.pageWrite md r v).Ok md := by
  unfold Mapper.pageWrite
  split
  · dsimp only
    split
    · rename_i ha
      simp only [Bool.and_eq_true] at ha
      refine ⟨?_, ?_⟩
      · intro q
        rw [Mapper.install_bank]
        split
        · exact Nat.mod_lt _ (by omega)
        · exact h.bankBound q
      · intro hf
        exact absurd (ha.1.symm.trans hf) (by simp)
    · exact ⟨h.bankBound, h.bankIdentity⟩
  · exact h

theorem Mapper.Ok.writeActive {m : Mapper} {md : Descriptor} (h : m.Ok md) (hb : 16 ≤ md.banks) (b : Bool) :
    (m.writeActive md b).Ok md := by
  unfold Mapper.writeActive
  have h0 : ({ m with active := b } : Mapper).active = b := rfl
  have hbd : ∀ r : Fin 16, ({ m with active := b } : Mapper).bank[r] < md.banks := h.bankBound
  generalize ({ m with active := b } : Mapper) = m0 at h0 hbd
  -- the whole list keeps the bound, and sets the identity of every region in it when b = false
  suffices key : ∀ (l : List (Fin 16)) (m0 : Mapper), m0.active = b → (∀ r : Fin 16, m0.bank[r] < md.banks) →
      let n := l.foldl (fun m r => if b then m.install md r else m.identity md r) m0
      n.active = b ∧ (∀ r : Fin 16, n.bank[r] < md.banks) ∧
        (b = false → ∀ r : Fin 16, (r ∈ l ∨ m0.bank[r] = r.val % md.banks) → n.bank[r] = r.val % md.banks) by
    obtain ⟨k1, k2, k3⟩ := key md.swappable m0 h0 hbd
    refine ⟨k2, ?_⟩
    intro hf r hr
    exact k3 (k1.symm.trans hf) r (.inl hr)
  intro l
  induction l with
  | nil =>
    intro m0 h1 h2
    refine ⟨h1, h2, ?_⟩
    intro _ r hr
    rcases hr with hr | hr
    · simp at hr
    · exact hr
  | cons q l ih =>
    intro m0 h1 h2
    rw [List.foldl_cons]
    cases b with
    | true =>
      have := ih (m0.install md q) h1 (by
        intro r
        rw [Mapper.install_bank]
        split
        · exact Nat.mod_lt _ (by omega)
        · exact h2 r)
      exact ⟨this.1, this.2.1, fun hf => absurd hf (by simp)⟩
    | false =>
      have := ih (m0.identity md q) h1 (by
        intro r
        rw [Mapper.identity_bank]
        split
        · exact Nat.mod_lt _ (by omega)
        · exact h2 r)
      refine ⟨this.1, this.2.1, ?_⟩
      intro hf r hr
      apply this.2.2 hf r
      rw [Mapper.identity_bank]
      by_cases hq : q = r
      · right; rw [if_pos hq, hq]
      · rcases hr with hr | hr
        · rcases List.mem_cons.mp hr with e | e
          · exact absurd e.symm hq
          · exact .inl e
        · right; rw [if_neg hq]; exact hr

theorem Mapper.pageWrite_visible (m : Mapper) (md : Descriptor) (r : BitVec 4) (v : Word) :
    (m.pageWrite md r v).visible = m.visible := by
  unfold Mapper.pageWrite
  split
  · dsimp only; split <;> rfl
  · rfl

theorem Mapper.writeActive_visible (m : Mapper) (md : Descriptor) (b : Bool) :
    (m.writeActive md b).visible = m.visible := by
  unfold Mapper.writeActive
  suffices key : ∀ (l : List (Fin 16)) (m0 : Mapper), m0.visible = m.visible →
      (l.foldl (fun m r => if b then m.install md r else m.identity md r) m0).visible = m.visible from
    key md.swappable _ rfl
  intro l
  induction l with
  | nil => exact fun _ h => h
  | cons q l ih =>
    intro m0 h
    rw [List.foldl_cons]
    apply ih
    split <;> exact h

theorem State.Inv.mapperOk {s : State} (h : s.Inv) : s.mapper.Ok s.md := ⟨h.bankBound, h.bankIdentity⟩

/-! ## The updates -/

theorem State.Inv.setPc {s : State} (h : s.Inv) (v : Word) : (s.setPc v).Inv :=
  { h with pcEven := evenAddr_bit0 v }

theorem State.Inv.setWp {s : State} (h : s.Inv) (v : Word) : (s.setWp v).Inv :=
  { h with wpEven := evenAddr_bit0 v }

theorem State.Inv.setSt {s : State} (h : s.Inv) {v : Word} (hv : v &&& 0x01F0 = 0) : (s.setSt v).Inv :=
  { h with stReserved := hv }

theorem State.Inv.loadSt {s : State} (h : s.Inv) (v : Word) : (s.loadSt v).Inv := h.setSt (reserved_stMask v)

theorem State.Inv.setInstPc {s : State} (h : s.Inv) (v : Word) : (s.setInstPc v).Inv := { h with }

theorem State.Inv.addCycles {s : State} (h : s.Inv) (n : Nat) : (s.addCycles n).Inv :=
  have hk := h.ok.later (Nat.le_add_right s.cycles n)
  { h with
    timerBase := hk.timerBase
    timerDelta := hk.timerDelta
    burstStarted := fun hb => Nat.le_trans (h.burstStarted hb) (Nat.le_add_right _ _) }

theorem State.Inv.setRun {s : State} (h : s.Inv) {v : RunState} (hv : v = .halted → s.sched.inBurst = false) :
    (s.setRun v).Inv :=
  { h with haltedIdle := hv }

theorem State.Inv.setIntPending {s : State} (h : s.Inv) (v : Bool) : (s.setIntPending v).Inv := { h with }

theorem State.Inv.setNoIntCheck {s : State} (h : s.Inv) (v : Bool) : (s.setNoIntCheck v).Inv := { h with }

theorem State.Inv.log {s : State} (h : s.Inv) (e : Event) : (s.log e).Inv := { h with }

theorem State.Inv.setCartBank {s : State} (h : s.Inv) (v : Nat) : (s.setCartBank v).Inv := { h with }

theorem State.Inv.setIo {s : State} (h : s.Inv) {c : Controller} (hc : c.Ok s.cycles) : (s.setIo c).Inv :=
  { h with
    intCount := hc.intCount
    reqPins := hc.reqPins
    enPins := hc.enPins
    timerBase := hc.timerBase
    timerDelta := hc.timerDelta }

theorem State.Inv.setKbd {s : State} (h : s.Inv) (v : Keyboard) : (s.setKbd v).Inv := { h with }

theorem State.Inv.setMapper {s : State} (h : s.Inv) {m : Mapper} (hm : m.Ok s.md)
    (hv : m.visible = true → s.granuleTag 0x400 = .mapperRegs ∧ s.granuleTag 0x401 = .mapperRegs) : (s.setMapper m).Inv :=
  { h with
    bankBound := hm.bankBound
    bankIdentity := hm.bankIdentity
    windowTag := hv }

theorem State.Inv.setPool {s : State} (h : s.Inv) {m : Memory} (hw : m.wf) (hb : ∀ p ∈ m, p.1 < s.md.banks * 4096) :
    (s.setPool m).Inv :=
  { h with poolWf := hw, poolBound := hb }

theorem State.Inv.setScratch {s : State} (h : s.Inv) {m : Memory} (hw : m.wf) (hb : ∀ p ∈ m, p.1 < 256) :
    (s.setScratch m).Inv :=
  { h with scratchWf := hw, scratchBound := hb }

theorem State.Inv.setXChain {s : State} (h : s.Inv) (v : Option XChain) : (s.setXChain v).Inv := { h with }

theorem State.Inv.nextDraw {s : State} (h : s.Inv) : s.nextDraw.Inv := { h with }

theorem State.Inv.setDevInputs {s : State} (h : s.Inv) (v : List DevReaction) : (s.setDevInputs v).Inv := { h with }

theorem State.Inv.setCruInputs {s : State} (h : s.Inv) (v : List EnableReaction) : (s.setCruInputs v).Inv := { h with }

/-- The scheduler's fields: a burst began in the past, and a halted machine is in none. -/
theorem State.Inv.setSched {s : State} (h : s.Inv) {v : Scheduler} (hb : v.inBurst = true → v.burstStart ≤ s.cycles)
    (hh : s.run = .halted → v.inBurst = false) : (s.setSched v).Inv :=
  { h with burstStarted := hb, haltedIdle := hh }

/-- A change that leaves the burst alone. -/
theorem State.Inv.setSched_same {s : State} (h : s.Inv) {v : Scheduler} (hb : v.inBurst = s.sched.inBurst)
    (hs : v.burstStart = s.sched.burstStart) : (s.setSched v).Inv :=
  h.setSched (by rw [hb, hs]; exact h.burstStarted) (by rw [hb]; exact h.haltedIdle)

/-! ## The data bus -/

theorem deviceWindow_not_mapperRegs {t : RegionTag} (h : deviceWindow t) : t ≠ .mapperRegs := by
  rcases h with h | h <;> rw [h] <;> decide

theorem State.Inv.retag {s : State} (h : s.Inv) (disk : Bool) (lo hi : Nat) : (s.retag disk lo hi).Inv := by
  have hm := retag_spec h.tagsWf disk lo hi
  obtain ⟨tags, ht⟩ := retag_eq s disk lo hi
  rw [ht] at hm ⊢
  have keep : ∀ g, s.granuleTag g = .mapperRegs → (s.setTags tags).granuleTag g = .mapperRegs := by
    intro g hg
    rcases hm.2 g with e | ⟨e, _⟩
    · rw [e, hg]
    · exact absurd hg (deviceWindow_not_mapperRegs e)
  exact { h with
    tagsWf := hm.1
    windowTag := fun hv => ⟨keep _ (h.windowTag hv).1, keep _ (h.windowTag hv).2⟩ }

theorem State.Inv.applyReaction {s : State} (h : s.Inv) (r : DevReaction) : (s.applyReaction r).Inv := by
  cases r with
  | quiet => exact h
  | raise p => exact h.setIo (h.ok.raise p)
  | clear p => exact h.setIo (h.ok.clear p)

theorem State.Inv.applyEnable {s : State} (h : s.Inv) (r : EnableReaction) : (s.applyEnable r).Inv := by
  cases r with
  | quiet => exact h
  | retag disk lo hi => exact h.retag disk lo hi

theorem State.Inv.reactEnable {s : State} (h : s.Inv) : s.reactEnable.Inv := by
  unfold State.reactEnable
  split
  · exact h
  · exact (h.setCruInputs _).applyEnable _

theorem State.Inv.react {s : State} (h : s.Inv) : s.react.Inv := by
  unfold State.react
  split
  · exact h
  · exact (h.setDevInputs _).applyReaction _

theorem State.Inv.chargeBus {s : State} (h : s.Inv) (t : RegionTag) : (s.chargeBus t).Inv := by
  obtain ⟨n, hn⟩ := chargeBus_eq s t
  rw [hn]; exact h.addCycles n

theorem State.Inv.readByte {s : State} (h : s.Inv) (a : Word) : (s.readByte a).2.Inv := by
  unfold State.readByte
  split
  · exact h.chargeBus _
  · apply State.Inv.nextDraw
    split
    · exact ((h.chargeBus _).log _).react
    · exact h.chargeBus _

theorem State.Inv.readWord {s : State} (h : s.Inv) (a : Word) : (s.readWord a).2.Inv := by
  unfold State.readWord
  dsimp only
  split
  · exact h.chargeBus _
  · apply State.Inv.nextDraw
    split
    · exact ((h.chargeBus _).log _).react
    · exact h.chargeBus _

theorem State.Inv.storeHome {s : State} (h : s.Inv) {a : Word} (v : Byte) : (s.storeHome (s.home a) v).Inv := by
  have hbank : ∀ r : BitVec 4, s.mapper.bankOf r < s.md.banks := fun r => h.bankBound r.toFin
  unfold State.storeHome
  split
  · rename_i off ho
    refine h.setScratch (Memory.wf_write _ _ h.scratchWf) (Memory.bound_write ?_ h.scratchBound)
    unfold State.home at ho
    split at ho <;> simp at ho
    omega
  · rename_i off ho
    refine h.setPool (Memory.wf_write _ _ h.poolWf) (Memory.bound_write ?_ h.poolBound)
    unfold State.home at ho
    split at ho <;> simp at ho
    have := hbank (regionOf a)
    rw [← ho]
    have : (s.mapper.bankOf (regionOf a) + 1) * 4096 ≤ s.md.banks * 4096 := Nat.mul_le_mul_right _ this
    omega
  all_goals exact h

theorem State.Inv.pageWrite {s : State} (h : s.Inv) (r : BitVec 4) (v : Word) :
    (s.setMapper (s.mapper.pageWrite s.md r v)).Inv :=
  h.setMapper (h.mapperOk.pageWrite h.enoughBanks r v) (by rw [Mapper.pageWrite_visible]; exact h.windowTag)

theorem State.Inv.devWrite {s : State} (h : s.Inv) (t : RegionTag) (a : Word) (n : Nat) (v : Word) :
    (s.devWrite t a n v).Inv := (h.log _).react

theorem State.Inv.handleByte {s : State} (h : s.Inv) (a : Word) (v : Byte) : (s.handleByte a v).Inv := by
  unfold State.handleByte
  split
  all_goals first
    | exact h
    | exact h.storeHome v
    | exact h.setCartBank _
    | exact h.pageWrite _ _
    | exact h.devWrite _ _ _ _

theorem State.Inv.handleWord {s : State} (h : s.Inv) (e v : Word) : (s.handleWord e v).Inv := by
  have two : ((s.storeHome (s.home e) (hiByte v)).storeHome (s.home (e + 1)) (loByte v)).Inv := by
    have h1 := h.storeHome (a := e) (hiByte v)
    have h2 := h1.storeHome (a := e + 1) (loByte v)
    rwa [home_storeHome] at h2
  unfold State.handleWord
  split
  all_goals first
    | exact h
    | exact two
    | exact h.setCartBank _
    | exact h.pageWrite _ _
    | exact h.devWrite _ _ _ _

theorem State.Inv.writeByte {s : State} (h : s.Inv) (a : Word) (v : Byte) : (s.writeByte a v).Inv := by
  unfold State.writeByte
  dsimp only
  split
  · exact ((h.readByte a).chargeBus _).handleByte _ _
  · exact (h.chargeBus _).handleByte _ _

theorem State.Inv.writeWord {s : State} (h : s.Inv) (a v : Word) : (s.writeWord a v).Inv := by
  unfold State.writeWord
  dsimp only
  split
  · exact ((h.readWord a).chargeBus _).handleWord _ _
  · exact (h.chargeBus _).handleWord _ _

theorem State.Inv.fetch {s : State} (h : s.Inv) : s.fetch.2.Inv := (h.readWord _).setPc _

theorem State.Inv.readReg {s : State} (h : s.Inv) (i : Nat) : (s.readReg i).2.Inv := h.readWord _

theorem State.Inv.writeReg {s : State} (h : s.Inv) (i : Nat) (v : Word) : (s.writeReg i v).Inv := h.writeWord _ _

theorem State.Inv.readVector {s : State} (h : s.Inv) (v : Word) : (s.readVector v).2.Inv := (h.readWord _).readWord _

theorem State.Inv.ea {s : State} (h : s.Inv) (g : GA) (size : Size) : (s.ea g size).2.Inv := by
  cases g with
  | reg n => exact h
  | ind n => exact h.readReg _
  | sym => exact h.fetch
  | idx n => exact h.fetch.readReg _
  | inc n => exact (h.readReg _).writeReg _ _

theorem State.Inv.sourceWord {s : State} (h : s.Inv) (g : GA) : (s.sourceWord g).2.Inv := (h.ea g _).readWord _

theorem State.Inv.sourceByte {s : State} (h : s.Inv) (g : GA) : (s.sourceByte g).2.Inv := (h.ea g _).readByte _

/-! ## The CRU bus -/

theorem State.Inv.timerSample {s : State} (h : s.Inv) : s.timerSample.Inv := h.setIo h.ok.timerSample

theorem State.Inv.matrixRow {s : State} (h : s.Inv) (r : Nat) : (s.matrixRow r).2.Inv := by
  unfold State.matrixRow
  split
  · exact h
  · exact h.nextDraw

theorem State.Inv.ioRead {s : State} (h : s.Inv) (p : Nat) : (s.ioRead p).2.Inv := by
  unfold State.ioRead
  split
  · exact h
  · split
    · exact h
    · split
      · exact h.matrixRow _
      · exact h

theorem State.Inv.timerRead {s : State} (h : s.Inv) (p : Nat) : (s.timerRead p).2.Inv := by
  unfold State.timerRead
  split
  · exact h
  · split
    · exact h
    · split
      · exact h
      · have h1 : ({ s.io with timerMode := false } : Controller).Ok s.cycles :=
          ⟨h.intCount, h.reqPins, h.enPins, h.timerBase, h.timerDelta⟩
        exact (h.setIo h1).ioRead p

theorem State.Inv.pinRead {s : State} (h : s.Inv) (p : Nat) : (s.pinRead p).2.Inv := by
  unfold State.pinRead
  dsimp only
  split
  · exact h.timerSample.timerRead p
  · exact h.timerSample.ioRead p

theorem State.Inv.pinWrite {s : State} (h : s.Inv) (p : Nat) (b : Bool) : (s.pinWrite p b).Inv :=
  h.timerSample.setIo (h.timerSample.ok.pinWrite p b)

theorem State.Inv.writeVisible {s : State} (h : s.Inv) (b : Bool) : (s.writeVisible b).Inv := by
  have w1 := setTag_wf h.tagsWf 0x400 (if b then .mapperRegs else .dsr)
  have w2 := setTag_wf w1 0x401 (if b then .mapperRegs else .dsr)
  exact { h with
    bankBound := h.bankBound
    bankIdentity := h.bankIdentity
    tagsWf := w2
    windowTag := by
      intro hb
      have hb : b = true := hb
      subst hb
      constructor
      · exact (granuleTag_setTag w1 0x401 0x400 _).trans
          ((if_neg (by decide)).trans ((granuleTag_setTag h.tagsWf 0x400 0x400 _).trans (if_pos rfl)))
      · exact (granuleTag_setTag w1 0x401 0x401 _).trans (if_pos rfl) }

theorem State.Inv.cruRead {s : State} (h : s.Inv) (a : CruAddr) : (s.cruRead a).2.Inv := by
  unfold State.cruRead
  split
  · exact h.pinRead _
  · split
    · exact h
    · split
      · exact h
      · exact h.nextDraw

theorem State.Inv.cruWrite {s : State} (h : s.Inv) (a : CruAddr) (b : Bool) : (s.cruWrite a b).Inv := by
  unfold State.cruWrite
  split
  · exact h.pinWrite _ b
  · split
    · exact h.writeVisible b
    · split
      · exact h.setMapper (h.mapperOk.writeActive h.enoughBanks b) (by rw [Mapper.writeActive_visible]; exact h.windowTag)
      · exact (h.log _).reactEnable

theorem State.Inv.cruWriteBits {s : State} (h : s.Inv) (a : CruAddr) (v : Word) (i n : Nat) :
    (s.cruWriteBits a v i n).Inv := by
  induction n generalizing s i with
  | zero => exact h
  | succ n ih => exact ih (h.cruWrite _ _) _

theorem State.Inv.cruReadBits {s : State} (h : s.Inv) (a : CruAddr) (v : Word) (i n : Nat) :
    (s.cruReadBits a v i n).2.Inv := by
  induction n generalizing s v i with
  | zero => exact h
  | succ n ih => exact ih (h.cruRead _) _ _

theorem State.Inv.cruBase {s : State} (h : s.Inv) : s.cruBase.2.Inv := h.readReg _

theorem State.Inv.cruBitAddr {s : State} (h : s.Inv) (disp : Byte) : (s.cruBitAddr disp).2.Inv := h.cruBase

theorem State.Inv.shiftCount {s : State} (h : s.Inv) (c : BitVec 4) : (s.shiftCount c).2.Inv := by
  unfold State.shiftCount
  split
  · exact h.readReg _
  · exact h

/-! ## Context switches and the end of an instruction -/

theorem State.Inv.contextSwitch {s : State} (h : s.Inv) (nwp npc : Word) : (s.contextSwitch nwp npc).Inv :=
  ((((h.setWp _).writeReg _ _).writeReg _ _).writeReg _ _).setPc _

theorem State.Inv.interruptEntry {s : State} (h : s.Inv) (level : Nat) : (s.interruptEntry level).Inv := by
  have h1 := (h.readVector (BitVec.ofNat 16 (4 * level))).contextSwitch
    (s.readVector (BitVec.ofNat 16 (4 * level))).1.1 (s.readVector (BitVec.ofNat 16 (4 * level))).1.2
  have h2 := h1.setSt (reserved_setIntMask (im := BitVec.ofNat 4 (level - 1)) h1.stReserved)
  unfold State.interruptEntry
  dsimp only
  split
  · exact ((h2.setRun (fun e => by cases e)).addCycles _).setNoIntCheck _
  · exact (h2.addCycles _).setNoIntCheck _

theorem State.Inv.interruptCheck {s : State} (h : s.Inv) : s.interruptCheck.Inv := by
  unfold State.interruptCheck
  split
  · exact h.setNoIntCheck _
  · dsimp only
    split
    · exact (h.timerSample.setIntPending _).interruptEntry _
    · exact h.timerSample.setIntPending _

theorem State.Inv.returnContext {s : State} (h : s.Inv) : s.returnContext.Inv :=
  (((((h.readReg 15).readReg 14).readReg 13).loadSt _).setPc _).setWp _

theorem State.Inv.pay {s : State} (h : s.Inv) (i : Instr) (o : CostOutcome) : (s.pay i o).Inv := h.addCycles _

theorem State.Inv.flagExternal {s : State} (h : s.Inv) (op : ExternalOp) : (s.flagExternal op).Inv := h.log _

theorem State.Inv.invalidOpcode {s : State} (h : s.Inv) (w : Word) : (s.invalidOpcode w).Inv := (h.log _).addCycles _

end Sys2Proof.Machine
end

