-- ==== Sys2Proof/Laws/Exec.lean ====
section
/-! SUPPORT. What the execution frames of Operands.lean, Jumps.lean and CruShift.lean do to the invariants, each once, for every
ALU function; and the arms of `exec` against what X executes. -/

namespace Sys2Proof.Machine

/-! ## The execution frames keep the invariants, given that the flag function keeps ST's reserved bits 0 -/

theorem State.Inv.dualModifyWord {s : State} (h : s.Inv) (src dst : GA) (f : (d s st : Word) → Word × Word)
    (hf : ∀ d v st, st &&& 0x01F0 = 0 → (f d v st).2 &&& 0x01F0 = 0) : (s.dualModifyWord src dst f).Inv := by
  have h1 := ((h.sourceWord src).ea dst .word).readWord ((s.sourceWord src).2.ea dst .word).1
  exact (h1.setSt (hf _ _ _ h1.stReserved)).writeWord _ _

theorem State.Inv.dualModifyByte {s : State} (h : s.Inv) (src dst : GA) (f : (d s : Byte) → (st : Word) → Byte × Word)
    (hf : ∀ d v st, st &&& 0x01F0 = 0 → (f d v st).2 &&& 0x01F0 = 0) : (s.dualModifyByte src dst f).Inv := by
  have h1 := ((h.sourceByte src).ea dst .byte).readByte ((s.sourceByte src).2.ea dst .byte).1
  exact (h1.setSt (hf _ _ _ h1.stReserved)).writeByte _ _

theorem State.Inv.dualCompareWord {s : State} (h : s.Inv) (src dst : GA) (f : (s d st : Word) → Word)
    (hf : ∀ d v st, st &&& 0x01F0 = 0 → f d v st &&& 0x01F0 = 0) : (s.dualCompareWord src dst f).Inv := by
  have h1 := ((h.sourceWord src).ea dst .word).readWord ((s.sourceWord src).2.ea dst .word).1
  exact h1.setSt (hf _ _ _ h1.stReserved)

theorem State.Inv.dualCompareByte {s : State} (h : s.Inv) (src dst : GA) (f : (s d : Byte) → (st : Word) → Word)
    (hf : ∀ d v st, st &&& 0x01F0 = 0 → f d v st &&& 0x01F0 = 0) : (s.dualCompareByte src dst f).Inv := by
  have h1 := ((h.sourceByte src).ea dst .byte).readByte ((s.sourceByte src).2.ea dst .byte).1
  exact h1.setSt (hf _ _ _ h1.stReserved)

theorem State.Inv.dualMoveWord {s : State} (h : s.Inv) (src dst : GA) (f : (s st : Word) → Word)
    (hf : ∀ v st, st &&& 0x01F0 = 0 → f v st &&& 0x01F0 = 0) : (s.dualMoveWord src dst f).Inv := by
  have h1 := (h.sourceWord src).ea dst .word
  exact (h1.setSt (hf _ _ h1.stReserved)).writeWord _ _

theorem State.Inv.dualMoveByte {s : State} (h : s.Inv) (src dst : GA) (f : (s : Byte) → (st : Word) → Word)
    (hf : ∀ v st, st &&& 0x01F0 = 0 → f v st &&& 0x01F0 = 0) : (s.dualMoveByte src dst f).Inv := by
  have h1 := (h.sourceByte src).ea dst .byte
  exact (h1.setSt (hf _ _ h1.stReserved)).writeByte _ _

theorem State.Inv.singleModify {s : State} (h : s.Inv) (g : GA) (f : (s st : Word) → Word × Word)
    (hf : ∀ v st, st &&& 0x01F0 = 0 → (f v st).2 &&& 0x01F0 = 0) : (s.singleModify g f).Inv := by
  have h1 := (h.ea g .word).readWord (s.ea g .word).1
  exact (h1.setSt (hf _ _ h1.stReserved)).writeWord _ _

theorem State.Inv.singleSet {s : State} (h : s.Inv) (g : GA) (v : Word) : (s.singleSet g v).Inv :=
  (h.ea g .word).writeWord _ _

theorem State.Inv.registerTest {s : State} (h : s.Inv) (src : GA) (d : Reg) (f : (s d st : Word) → Word)
    (hf : ∀ v x st, st &&& 0x01F0 = 0 → f v x st &&& 0x01F0 = 0) : (s.registerTest src d f).Inv := by
  have h1 := (h.sourceWord src).readReg d.toNat
  exact h1.setSt (hf _ _ _ h1.stReserved)

theorem State.Inv.immediateModify {s : State} (h : s.Inv) (w : Reg) (f : (x imm st : Word) → Word × Word)
    (hf : ∀ x v st, st &&& 0x01F0 = 0 → (f x v st).2 &&& 0x01F0 = 0) : (s.immediateModify w f).Inv := by
  have h1 := h.fetch.readReg w.toNat
  exact (h1.setSt (hf _ _ _ h1.stReserved)).writeReg _ _

theorem State.Inv.jump {s : State} (h : s.Inv) (i : Instr) (cond : Bool) (disp : Byte) : (s.jump i cond disp).Inv := by
  unfold State.jump
  split
  · exact (h.setPc _).pay _ _
  · exact h.pay _ _

theorem State.Inv.shift {s : State} (h : s.Inv) (i : Instr) (w : Reg) (c : BitVec 4)
    (f : (v : Word) → (n : Nat) → (st : Word) → Word × Word)
    (hf : ∀ v n st, st &&& 0x01F0 = 0 → (f v n st).2 &&& 0x01F0 = 0) : (s.shift i w c f).Inv := by
  have h1 := (h.shiftCount c).readReg w.toNat
  exact ((h1.setSt (hf _ _ _ h1.stReserved)).writeReg _ _).pay _ _

/-! ## X -/

/-- What X executes is what `exec` does, an X apart. -/
theorem exec_eq_execPlain (i : Instr) (s : State) (h : ∀ g, i ≠ .x g) : exec i s = execPlain i s := by
  cases i <;> first | rfl | exact absurd rfl (h _)

/-- A word that is an X: the chain goes on at that X's operand. -/
theorem runChain_x {w : Word} {g : GA} (hw : decodeWord w = .x g) (n : Nat) (m : XMark) (owed : Nat) (s : State) :
    runChain (n + 1) m w owed s =
      runChain n m (s.xFetch g).1 (owed + baseCycles s.md (.instr (.x g) .plain)) (s.xFetch g).2 := by
  simp only [runChain, hw]

/-- A word that is no X ends the chain, whatever it answers. -/
theorem runChain_end {w : Word} (hw : ∀ g, decodeWord w ≠ .x g) (n : Nat) (m : XMark) (owed : Nat) {s t : State}
    (h : execPlain (decodeWord w) s = .next t) : runChain (n + 1) m w owed s = .next (t.addCycles owed) := by
  unfold runChain
  split
  · exact absurd ‹_› (hw _)
  · rw [h]

end Sys2Proof.Machine
end

