-- ==== Sys2Proof/Laws/Chain.lean ====
section
/-! SUPPORT. X chains: what an X fetches depends on nothing but what `XSeen` holds and what no X changes, so a chain that comes
to the same `XSeen` twice never ends; what `chainEnd` says; and which host calls a chain admits (assumption 8). -/

namespace Sys2Proof.Machine

/-- `t` is `s` as far as the data bus and PC go. -/
structure State.SeesAs (s t : State) : Prop where
  md : t.md = s.md
  wp : t.wp = s.wp
  tags : t.tags = s.tags
  pc : t.pc = s.pc
  cartBank : t.cartBank = s.cartBank
  mapper : t.mapper = s.mapper
  pool : t.pool = s.pool
  scratch : t.scratch = s.scratch
  draws : t.draws = s.draws

theorem State.SeesAs.tagAt {s t : State} (h : s.SeesAs t) (a : Word) : t.tagAt a = s.tagAt a := by
  simp only [State.tagAt, h.md, h.tags]

theorem State.SeesAs.home {s t : State} (h : s.SeesAs t) (a : Word) : t.home a = s.home a := by
  simp only [State.home, h.tagAt, h.mapper, h.cartBank]

theorem State.SeesAs.homeByte {s t : State} (h : s.SeesAs t) (x : Home) : t.homeByte x = s.homeByte x := by
  cases x <;> simp [State.homeByte, h.md, h.mapper, h.pool, h.scratch]

theorem State.SeesAs.peekWord {s t : State} (h : s.SeesAs t) (a : Word) : t.peekWord a = s.peekWord a := by
  simp only [State.peekWord, State.peek, h.home, h.homeByte]

theorem State.SeesAs.chargeBus {s t : State} (h : s.SeesAs t) (g : RegionTag) : (s.chargeBus g).SeesAs (t.chargeBus g) := by
  unfold State.chargeBus
  rw [h.md]
  split
  · exact ⟨h.md, h.wp, h.tags, h.pc, h.cartBank, h.mapper, h.pool, h.scratch, h.draws⟩
  · exact h

theorem State.SeesAs.log {s t : State} (h : s.SeesAs t) (e : Event) : (s.log e).SeesAs (t.log e) :=
  ⟨h.md, h.wp, h.tags, h.pc, h.cartBank, h.mapper, h.pool, h.scratch, h.draws⟩

theorem State.SeesAs.nextDraw {s t : State} (h : s.SeesAs t) : s.nextDraw.SeesAs t.nextDraw :=
  ⟨h.md, h.wp, h.tags, h.pc, h.cartBank, h.mapper, h.pool, h.scratch, congrArg (· + 1) h.draws⟩

theorem State.SeesAs.setPc {s t : State} (h : s.SeesAs t) (v : Word) : (s.setPc v).SeesAs (t.setPc v) :=
  ⟨h.md, h.wp, h.tags, rfl, h.cartBank, h.mapper, h.pool, h.scratch, h.draws⟩

theorem seesAs_react (s : State) : s.SeesAs s.react := by
  unfold State.react
  split
  · exact ⟨rfl, rfl, rfl, rfl, rfl, rfl, rfl, rfl, rfl⟩
  · rename_i r _ _
    cases r <;> exact ⟨rfl, rfl, rfl, rfl, rfl, rfl, rfl, rfl, rfl⟩

/-- Collaborators react in ways the data bus does not see. -/
theorem State.SeesAs.react {s t : State} (h : s.SeesAs t) : s.react.SeesAs t.react := by
  have hs := seesAs_react s
  have ht := seesAs_react t
  constructor
  · rw [ht.md, h.md, hs.md]
  · rw [ht.wp, h.wp, hs.wp]
  · rw [ht.tags, h.tags, hs.tags]
  · rw [ht.pc, h.pc, hs.pc]
  · rw [ht.cartBank, h.cartBank, hs.cartBank]
  · rw [ht.mapper, h.mapper, hs.mapper]
  · rw [ht.pool, h.pool, hs.pool]
  · rw [ht.scratch, h.scratch, hs.scratch]
  · rw [ht.draws, h.draws, hs.draws]

/-- The same word is read, and the states are alike after it. -/
theorem State.SeesAs.readWord {s t : State} (h : s.SeesAs t) (a : Word) :
    (t.readWord a).1 = (s.readWord a).1 ∧ (s.readWord a).2.SeesAs (t.readWord a).2 := by
  unfold State.readWord
  simp only [h.peekWord, h.tagAt]
  split
  · exact ⟨rfl, h.chargeBus _⟩
  · refine ⟨congrArg Config.drawWord h.draws, State.SeesAs.nextDraw ?_⟩
    split
    · exact ((h.chargeBus _).log _).react
    · exact h.chargeBus _

theorem State.SeesAs.storeHome {s t : State} (h : s.SeesAs t) (x : Home) (v : Byte) :
    (s.storeHome x v).SeesAs (t.storeHome x v) := by
  cases x
  case scratch off =>
    exact ⟨h.md, h.wp, h.tags, h.pc, h.cartBank, h.mapper, h.pool, congrArg (Memory.write · off v) h.scratch, h.draws⟩
  case pool off =>
    exact ⟨h.md, h.wp, h.tags, h.pc, h.cartBank, h.mapper, congrArg (Memory.write · off v) h.pool, h.scratch, h.draws⟩
  all_goals exact h

theorem State.SeesAs.handleWord {s t : State} (h : s.SeesAs t) (e v : Word) : (s.handleWord e v).SeesAs (t.handleWord e v) := by
  unfold State.handleWord
  simp only [h.tagAt, h.home]
  split
  all_goals first
    | exact h
    | exact (h.storeHome _ _).storeHome _ _
    | exact (h.log _).react
    | exact ⟨h.md, h.wp, h.tags, h.pc, by simp [State.selectCart, h.md], h.mapper, h.pool, h.scratch, h.draws⟩
    | exact ⟨h.md, h.wp, h.tags, h.pc, h.cartBank, by simp [h.md, h.mapper], h.pool, h.scratch, h.draws⟩

theorem State.SeesAs.writeWord {s t : State} (h : s.SeesAs t) (a v : Word) : (s.writeWord a v).SeesAs (t.writeWord a v) := by
  unfold State.writeWord
  simp only [h.md]
  by_cases hr : s.md.readBeforeWrite = true
  · have h1 := (h.readWord a).2
    rw [if_pos hr, if_pos hr, h1.tagAt]
    exact (h1.chargeBus _).handleWord _ _
  · rw [if_neg hr, if_neg hr, h.tagAt]
    exact (h.chargeBus _).handleWord _ _

theorem State.SeesAs.readReg {s t : State} (h : s.SeesAs t) (i : Nat) :
    (t.readReg i).1 = (s.readReg i).1 ∧ (s.readReg i).2.SeesAs (t.readReg i).2 := by
  unfold State.readReg State.ra
  rw [h.wp]; exact h.readWord _

theorem State.SeesAs.fetch {s t : State} (h : s.SeesAs t) : t.fetch.1 = s.fetch.1 ∧ s.fetch.2.SeesAs t.fetch.2 := by
  unfold State.fetch
  simp only [h.pc]
  exact ⟨(h.readWord _).1, (h.readWord _).2.setPc _⟩

theorem State.SeesAs.ea {s t : State} (h : s.SeesAs t) (g : GA) (size : Size) :
    (t.ea g size).1 = (s.ea g size).1 ∧ (s.ea g size).2.SeesAs (t.ea g size).2 := by
  cases g with
  | reg n => exact ⟨by simp [State.ea, State.ra, h.wp], h⟩
  | ind n => exact h.readReg _
  | sym => exact h.fetch
  | idx n =>
    have h1 := h.fetch
    have h2 := h1.2.readReg n.toNat
    exact ⟨by simp only [State.ea]; rw [h1.1, h2.1], h2.2⟩
  | inc n =>
    have h1 := h.readReg n.toNat
    refine ⟨h1.1, ?_⟩
    simp only [State.ea, State.writeReg, State.ra, h1.2.wp, h1.1]
    exact h1.2.writeWord _ _

/-- What an X fetches, and where it leaves the data bus, depends on nothing else. -/
theorem State.SeesAs.xFetch {s t : State} (h : s.SeesAs t) (g : GA) :
    (t.xFetch g).1 = (s.xFetch g).1 ∧ (s.xFetch g).2.SeesAs (t.xFetch g).2 := by
  have h1 := h.ea g .word
  unfold State.xFetch State.sourceWord
  simp only [h1.1]
  exact h1.2.readWord _

/-- Two states of one chain with the same `XSeen` are alike. -/
theorem seesAs_of_seen {s t : State} {v w : Word} (hm : t.md = s.md) (hw : t.wp = s.wp) (ht : t.tags = s.tags)
    (h : XSeen.of v s = XSeen.of w t) : w = v ∧ s.SeesAs t := by
  simp only [XSeen.of, XSeen.mk.injEq] at h
  obtain ⟨h1, h2, h3, h4, h5, h6, h7⟩ := h
  exact ⟨h1.symm, hm, hw, ht, h2.symm, h3.symm, h4.symm, h5.symm, h6.symm, h7.symm⟩

/-! ## The end of a chain -/

/-- `n` steps of `f` from `a`; none where there are fewer. -/
def walk {α : Type} (f : α → Option α) : Nat → α → Option α
  | 0, a => some a
  | n + 1, a =>
    match f a with
    | some b => walk f n b
    | none => none

theorem walk_succ {α : Type} (f : α → Option α) (n : Nat) (a : α) :
    walk f (n + 1) a = match f a with | some b => walk f n b | none => none := rfl

theorem lastOf_some {α : Type} {f : α → Option α} {a b : α} (h : lastOf f a = some b) : ∃ n, walk f n a = none := by
  refine lastOf.partial_correctness f (fun a _ => ∃ n, walk f n a = none) ?_ a b h
  intro rec ih a b hr
  cases hn : f a with
  | none => exact ⟨1, by rw [walk_succ, hn]⟩
  | some c =>
    rw [hn] at hr
    obtain ⟨n, h1⟩ := ih c b hr
    exact ⟨n + 1, by rw [walk_succ, hn]; exact h1⟩

theorem lastOf_next {α : Type} {f : α → Option α} {a b : α} (h : f a = some b) : lastOf f a = lastOf f b := by
  have he := lastOf.eq_def f a
  rwa [h] at he

theorem lastOf_last {α : Type} {f : α → Option α} {a : α} (h : f a = none) : lastOf f a = some a := by
  have he := lastOf.eq_def f a
  rwa [h] at he

theorem walk_of_endless {α : Type} {f : α → Option α} (n : Nat) {a : α} (h : lastOf f a = none) : walk f n a ≠ none := by
  induction n generalizing a with
  | zero => exact Option.some_ne_none _
  | succ n ih =>
    cases hn : f a with
    | none => rw [lastOf_last hn] at h; exact absurd h (Option.some_ne_none _)
    | some b =>
      rw [walk_succ, hn]
      exact ih ((lastOf_next hn).symm.trans h)

/-- There is no last one exactly when it goes on for ever. -/
theorem lastOf_eq_none_iff {α : Type} (f : α → Option α) (a : α) : lastOf f a = none ↔ ∀ n, walk f n a ≠ none := by
  refine ⟨fun h n => walk_of_endless n h, fun h => ?_⟩
  by_contra hc
  obtain ⟨b, hb⟩ := Option.ne_none_iff_exists'.mp hc
  obtain ⟨n, hn⟩ := lastOf_some hb
  exact h n hn

theorem chainNext_x {w : Word} {g : GA} (hw : decodeWord w = .x g) (s : State) : chainNext (w, s) = some (s.xFetch g) := by
  simp only [chainNext, hw]

theorem chainNext_end {w : Word} (hw : ∀ g, decodeWord w ≠ .x g) (s : State) : chainNext (w, s) = none := by
  unfold chainNext
  split
  · exact absurd ‹_› (hw _)
  · rfl

/-- A chain has no end exactly when it goes on for ever. -/
theorem chainEnd_eq_none_iff (w : Word) (s : State) : chainEnd w s = none ↔ ∀ n, walk chainNext n (w, s) ≠ none :=
  lastOf_eq_none_iff _ _

/-- A chain is a hang exactly when it is marked endless or goes on for ever. -/
theorem hangs_iff (s : State) (c : XChain) :
    s.hangs c = true ↔ c.mark.endless = true ∨ ∀ n, walk chainNext n (c.word, s) ≠ none := by
  rw [State.hangs, Bool.or_eq_true, Option.isNone_iff_eq_none, chainEnd_eq_none_iff]

/-- Which host call a step serves: between bursts the next one; in a chain only a reset, and only where the chain is a
hang. -/
theorem pendingCall_spec {s : State} {p : HostCall × List HostCall} (h : s.pendingCall = some p) :
    s.sched.queue = p.1 :: p.2 ∧
      ((s.xChain = none ∧ s.bursting = false) ∨ ∃ c, s.xChain = some c ∧ s.hangs c = true ∧ p.1.isReset = true) := by
  unfold State.pendingCall at h
  split at h
  · cases h
  · rename_i call rest hq
    split at h
    · rename_i ha
      cases h
      refine ⟨hq, ?_⟩
      unfold State.admits at ha
      split at ha
      · rename_i c hc
        rw [Bool.and_eq_true] at ha
        exact .inr ⟨c, hc, ha.2, ha.1⟩
      · rename_i hc
        exact .inl ⟨hc, by simpa using ha⟩
    · cases h

end Sys2Proof.Machine
end

