-- ==== Sys2Proof/Laws/Parameters.lean ====
section
/-! SUPPORT. What the descriptor test says (20_memory.md R117, 00_scope.md R9). -/

namespace Sys2Proof.Machine

theorem expRamSwappable_iff (md : Descriptor) (q : Fin 16) :
    expRamSwappable md q = true ↔ ∀ g, g / 256 = q.val → regionInit md g = .expRam → q ∈ md.swappable := by
  simp only [expRamSwappable, Bool.or_eq_true, List.contains_iff_mem, List.all_eq_true, List.mem_range'_1, bne_iff_ne]
  constructor
  · rintro (h | h) g hg ht
    · exact h
    · exact absurd ht (h g (by omega))
  · intro h
    by_cases hq : q ∈ md.swappable
    · exact .inl hq
    · exact .inr fun g hg ht => hq (h g (by omega) ht)

/-- The descriptors that a reset accepts. -/
theorem descriptorOk_iff (md : Descriptor) :
    descriptorOk md = true ↔
      16 ≤ md.banks ∧ (∀ (q : Fin 16) (g : Nat), g / 256 = q.val → regionInit md g = .expRam → q ∈ md.swappable) ∧
      md.samsCruBase ≤ 0xFFE ∧ 1 ≤ md.cpuIntLevel ∧ md.cpuIntLevel ≤ 15 ∧ 0 < md.idleQuantum ∧ 0 < md.cyclesPerFrame := by
  simp only [descriptorOk, Bool.and_eq_true, decide_eq_true_eq, List.all_eq_true, List.mem_finRange, forall_const,
    expRamSwappable_iff, and_assoc]

/-- A tag that is not the default comes from a line that holds the granule. -/
theorem regionAt_line {l : List TagRun} {g : Nat} {t : RegionTag} (h : regionAt l g = t) (ht : t ≠ .unused) :
    ∃ r ∈ l, r.first ≤ g ∧ g ≤ r.last ∧ r.tag = t := by
  induction l with
  | nil => exact absurd h.symm ht
  | cons r l ih =>
    unfold regionAt at h
    split at h
    · exact ⟨r, List.mem_cons_self, (‹_ ∧ _›).1, (‹_ ∧ _›).2, h⟩
    · obtain ⟨q, hq, h1⟩ := ih h
      exact ⟨q, List.mem_cons_of_mem _ hq, h1⟩

/-- A reset accepts the stock descriptor. -/
theorem stock_descriptorOk : descriptorOk Descriptor.stock = true := by
  rw [descriptorOk_iff]
  refine ⟨by decide, ?_, by decide, by decide, by decide, by decide, by decide⟩
  intro q g hq ht
  obtain ⟨r, hr, h1, h2, h3⟩ := regionAt_line ht (by decide)
  have lines : ∀ r ∈ stockRegionMap 1, r.tag = .expRam →
      (0xA00 ≤ r.first ∧ r.last ≤ 0xFFF) ∨ (0x200 ≤ r.first ∧ r.last ≤ 0x3FF) := by decide
  have hl := lines r hr h3
  have : q.val = 2 ∨ q.val = 3 ∨ (10 ≤ q.val ∧ q.val ≤ 15) := by omega
  have swap : ∀ q : Fin 16, q.val = 2 ∨ q.val = 3 ∨ (10 ≤ q.val ∧ q.val ≤ 15) → q ∈ Descriptor.stock.swappable := by decide
  exact swap q this

end Sys2Proof.Machine
end

