-- ==== Sys2Proof/Laws/PerInstr.lean ====
section
/-! SUPPORT. The lemma families over all instructions, one lemma per constructor. `EncodeRow`: an instruction's word lies in
the instruction's own row of the opcode table (30_encoding.md R170, R172 to R179, R186) and its operands take at most two
extension words (R171). -/

namespace Sys2Proof.Laws

/-- The word `encodeWord` writes matches the row's pattern under the row's mask, and no instruction is longer than three
words. -/
def EncodeRow.Statement (i : Instr) : Prop := encodeWord i &&& i.row.2 = i.row.1 ∧ i.extensionWords ≤ 2

theorem extensionWords_le_one (g : GA) : g.extensionWords ≤ 1 := by
  cases g with
  | reg n => exact Nat.zero_le 1
  | ind n => exact Nat.zero_le 1
  | sym => exact Nat.le_refl 1
  | idx n => exact Nat.le_refl 1
  | inc n => exact Nat.zero_le 1

theorem encodeI_row (op : BitVec 4) (src dst : GA) : encodeI op src dst &&& 0xF000 = op ++ 0#12 := by
  have m : (0xF000 : Word) = BitVec.allOnes 4 ++ 0#2 ++ 0#4 ++ 0#2 ++ 0#4 := by decide
  have z : op ++ 0#12 = op ++ 0#2 ++ 0#4 ++ 0#2 ++ 0#4 := by revert op; decide
  rw [m, z, encodeI, BitVec.and_append, BitVec.and_append, BitVec.and_append, BitVec.and_append, BitVec.and_allOnes]
  repeat rw [BitVec.and_zero]

theorem encodeII_row (op : BitVec 8) (disp : Byte) : encodeII op disp &&& 0xFF00 = op ++ 0#8 := by
  have m : (0xFF00 : Word) = BitVec.allOnes 8 ++ 0#8 := by decide
  rw [m, encodeII, BitVec.and_append, BitVec.and_allOnes, BitVec.and_zero]

theorem encodeIII_row (op : BitVec 6) (g : GA) (d : BitVec 4) : encodeIII op g d &&& 0xFC00 = op ++ 0#10 := by
  have m : (0xFC00 : Word) = BitVec.allOnes 6 ++ 0#4 ++ 0#2 ++ 0#4 := by decide
  have z : op ++ 0#10 = op ++ 0#4 ++ 0#2 ++ 0#4 := by revert op; decide
  rw [m, z, encodeIII, BitVec.and_append, BitVec.and_append, BitVec.and_append, BitVec.and_allOnes]
  repeat rw [BitVec.and_zero]

theorem encodeV_row (op : BitVec 8) (w : Reg) (c : BitVec 4) : encodeV op w c &&& 0xFF00 = op ++ 0#8 := by
  have m : (0xFF00 : Word) = BitVec.allOnes 8 ++ 0#4 ++ 0#4 := by decide
  have z : op ++ 0#8 = op ++ 0#4 ++ 0#4 := by revert op; decide
  rw [m, z, encodeV, BitVec.and_append, BitVec.and_append, BitVec.and_allOnes]
  repeat rw [BitVec.and_zero]

theorem encodeVI_row (op : BitVec 10) (g : GA) : encodeVI op g &&& 0xFFC0 = op ++ 0#6 := by
  have m : (0xFFC0 : Word) = BitVec.allOnes 10 ++ 0#2 ++ 0#4 := by decide
  have z : op ++ 0#6 = op ++ 0#2 ++ 0#4 := by revert op; decide
  rw [m, z, encodeVI, BitVec.and_append, BitVec.and_append, BitVec.and_allOnes]
  repeat rw [BitVec.and_zero]

theorem encodeVIII_row (op : BitVec 11) (w : Reg) : encodeVIII op w &&& 0xFFE0 = op ++ 0#5 := by
  have m : (0xFFE0 : Word) = BitVec.allOnes 11 ++ 0#1 ++ 0#4 := by decide
  have z : op ++ 0#5 = op ++ 0#1 ++ 0#4 := by revert op; decide
  rw [m, z, encodeVIII, BitVec.and_append, BitVec.and_append, BitVec.and_allOnes]
  repeat rw [BitVec.and_zero]

theorem illegal_row {a b : Nat} (op : BitVec a) (low : BitVec b) :
    (op ++ low) &&& (BitVec.allOnes a ++ 0#b) = op ++ 0#b := by
  rw [BitVec.and_append, BitVec.and_allOnes, BitVec.and_zero]

theorem EncodeRow.szc (src dst : GA) : EncodeRow.Statement (.szc src dst) :=
  ⟨encodeI_row _ src dst, Nat.add_le_add (extensionWords_le_one src) (extensionWords_le_one dst)⟩

theorem EncodeRow.szcb (src dst : GA) : EncodeRow.Statement (.szcb src dst) :=
  ⟨encodeI_row _ src dst, Nat.add_le_add (extensionWords_le_one src) (extensionWords_le_one dst)⟩

theorem EncodeRow.s (src dst : GA) : EncodeRow.Statement (.s src dst) :=
  ⟨encodeI_row _ src dst, Nat.add_le_add (extensionWords_le_one src) (extensionWords_le_one dst)⟩

theorem EncodeRow.sb (src dst : GA) : EncodeRow.Statement (.sb src dst) :=
  ⟨encodeI_row _ src dst, Nat.add_le_add (extensionWords_le_one src) (extensionWords_le_one dst)⟩

theorem EncodeRow.c (src dst : GA) : EncodeRow.Statement (.c src dst) :=
  ⟨encodeI_row _ src dst, Nat.add_le_add (extensionWords_le_one src) (extensionWords_le_one dst)⟩

theorem EncodeRow.cb (src dst : GA) : EncodeRow.Statement (.cb src dst) :=
  ⟨encodeI_row _ src dst, Nat.add_le_add (extensionWords_le_one src) (extensionWords_le_one dst)⟩

theorem EncodeRow.a (src dst : GA) : EncodeRow.Statement (.a src dst) :=
  ⟨encodeI_row _ src dst, Nat.add_le_add (extensionWords_le_one src) (extensionWords_le_one dst)⟩

theorem EncodeRow.ab (src dst : GA) : EncodeRow.Statement (.ab src dst) :=
  ⟨encodeI_row _ src dst, Nat.add_le_add (extensionWords_le_one src) (extensionWords_le_one dst)⟩

theorem EncodeRow.mov (src dst : GA) : EncodeRow.Statement (.mov src dst) :=
  ⟨encodeI_row _ src dst, Nat.add_le_add (extensionWords_le_one src) (extensionWords_le_one dst)⟩

theorem EncodeRow.movb (src dst : GA) : EncodeRow.Statement (.movb src dst) :=
  ⟨encodeI_row _ src dst, Nat.add_le_add (extensionWords_le_one src) (extensionWords_le_one dst)⟩

theorem EncodeRow.soc (src dst : GA) : EncodeRow.Statement (.soc src dst) :=
  ⟨encodeI_row _ src dst, Nat.add_le_add (extensionWords_le_one src) (extensionWords_le_one dst)⟩

theorem EncodeRow.socb (src dst : GA) : EncodeRow.Statement (.socb src dst) :=
  ⟨encodeI_row _ src dst, Nat.add_le_add (extensionWords_le_one src) (extensionWords_le_one dst)⟩

theorem EncodeRow.jmp (disp : Byte) : EncodeRow.Statement (.jmp disp) := ⟨encodeII_row _ disp, Nat.zero_le 2⟩

theorem EncodeRow.jlt (disp : Byte) : EncodeRow.Statement (.jlt disp) := ⟨encodeII_row _ disp, Nat.zero_le 2⟩

theorem EncodeRow.jle (disp : Byte) : EncodeRow.Statement (.jle disp) := ⟨encodeII_row _ disp, Nat.zero_le 2⟩

theorem EncodeRow.jeq (disp : Byte) : EncodeRow.Statement (.jeq disp) := ⟨encodeII_row _ disp, Nat.zero_le 2⟩

theorem EncodeRow.jhe (disp : Byte) : EncodeRow.Statement (.jhe disp) := ⟨encodeII_row _ disp, Nat.zero_le 2⟩

theorem EncodeRow.jgt (disp : Byte) : EncodeRow.Statement (.jgt disp) := ⟨encodeII_row _ disp, Nat.zero_le 2⟩

theorem EncodeRow.jne (disp : Byte) : EncodeRow.Statement (.jne disp) := ⟨encodeII_row _ disp, Nat.zero_le 2⟩

theorem EncodeRow.jnc (disp : Byte) : EncodeRow.Statement (.jnc disp) := ⟨encodeII_row _ disp, Nat.zero_le 2⟩

theorem EncodeRow.joc (disp : Byte) : EncodeRow.Statement (.joc disp) := ⟨encodeII_row _ disp, Nat.zero_le 2⟩

theorem EncodeRow.jno (disp : Byte) : EncodeRow.Statement (.jno disp) := ⟨encodeII_row _ disp, Nat.zero_le 2⟩

theorem EncodeRow.jl (disp : Byte) : EncodeRow.Statement (.jl disp) := ⟨encodeII_row _ disp, Nat.zero_le 2⟩

theorem EncodeRow.jh (disp : Byte) : EncodeRow.Statement (.jh disp) := ⟨encodeII_row _ disp, Nat.zero_le 2⟩

theorem EncodeRow.jop (disp : Byte) : EncodeRow.Statement (.jop disp) := ⟨encodeII_row _ disp, Nat.zero_le 2⟩

theorem EncodeRow.sbo (disp : Byte) : EncodeRow.Statement (.sbo disp) := ⟨encodeII_row _ disp, Nat.zero_le 2⟩

theorem EncodeRow.sbz (disp : Byte) : EncodeRow.Statement (.sbz disp) := ⟨encodeII_row _ disp, Nat.zero_le 2⟩

theorem EncodeRow.tb (disp : Byte) : EncodeRow.Statement (.tb disp) := ⟨encodeII_row _ disp, Nat.zero_le 2⟩

theorem EncodeRow.coc (g : GA) (d : BitVec 4) : EncodeRow.Statement (.coc g d) :=
  ⟨encodeIII_row _ g d, Nat.le_succ_of_le (extensionWords_le_one g)⟩

theorem EncodeRow.czc (g : GA) (d : BitVec 4) : EncodeRow.Statement (.czc g d) :=
  ⟨encodeIII_row _ g d, Nat.le_succ_of_le (extensionWords_le_one g)⟩

theorem EncodeRow.xor (g : GA) (d : BitVec 4) : EncodeRow.Statement (.xor g d) :=
  ⟨encodeIII_row _ g d, Nat.le_succ_of_le (extensionWords_le_one g)⟩

theorem EncodeRow.xop (g : GA) (d : BitVec 4) : EncodeRow.Statement (.xop g d) :=
  ⟨encodeIII_row _ g d, Nat.le_succ_of_le (extensionWords_le_one g)⟩

theorem EncodeRow.ldcr (g : GA) (d : BitVec 4) : EncodeRow.Statement (.ldcr g d) :=
  ⟨encodeIII_row _ g d, Nat.le_succ_of_le (extensionWords_le_one g)⟩

theorem EncodeRow.stcr (g : GA) (d : BitVec 4) : EncodeRow.Statement (.stcr g d) :=
  ⟨encodeIII_row _ g d, Nat.le_succ_of_le (extensionWords_le_one g)⟩

theorem EncodeRow.mpy (g : GA) (d : BitVec 4) : EncodeRow.Statement (.mpy g d) :=
  ⟨encodeIII_row _ g d, Nat.le_succ_of_le (extensionWords_le_one g)⟩

theorem EncodeRow.div (g : GA) (d : BitVec 4) : EncodeRow.Statement (.div g d) :=
  ⟨encodeIII_row _ g d, Nat.le_succ_of_le (extensionWords_le_one g)⟩

theorem EncodeRow.sra (w : Reg) (c : BitVec 4) : EncodeRow.Statement (.sra w c) := ⟨encodeV_row _ w c, Nat.zero_le 2⟩

theorem EncodeRow.srl (w : Reg) (c : BitVec 4) : EncodeRow.Statement (.srl w c) := ⟨encodeV_row _ w c, Nat.zero_le 2⟩

theorem EncodeRow.sla (w : Reg) (c : BitVec 4) : EncodeRow.Statement (.sla w c) := ⟨encodeV_row _ w c, Nat.zero_le 2⟩

theorem EncodeRow.src (w : Reg) (c : BitVec 4) : EncodeRow.Statement (.src w c) := ⟨encodeV_row _ w c, Nat.zero_le 2⟩

theorem EncodeRow.blwp (g : GA) : EncodeRow.Statement (.blwp g) :=
  ⟨encodeVI_row _ g, Nat.le_succ_of_le (extensionWords_le_one g)⟩

theorem EncodeRow.b (g : GA) : EncodeRow.Statement (.b g) :=
  ⟨encodeVI_row _ g, Nat.le_succ_of_le (extensionWords_le_one g)⟩

theorem EncodeRow.x (g : GA) : EncodeRow.Statement (.x g) :=
  ⟨encodeVI_row _ g, Nat.le_succ_of_le (extensionWords_le_one g)⟩

theorem EncodeRow.clr (g : GA) : EncodeRow.Statement (.clr g) :=
  ⟨encodeVI_row _ g, Nat.le_succ_of_le (extensionWords_le_one g)⟩

theorem EncodeRow.neg (g : GA) : EncodeRow.Statement (.neg g) :=
  ⟨encodeVI_row _ g, Nat.le_succ_of_le (extensionWords_le_one g)⟩

theorem EncodeRow.inv (g : GA) : EncodeRow.Statement (.inv g) :=
  ⟨encodeVI_row _ g, Nat.le_succ_of_le (extensionWords_le_one g)⟩

theorem EncodeRow.inc (g : GA) : EncodeRow.Statement (.inc g) :=
  ⟨encodeVI_row _ g, Nat.le_succ_of_le (extensionWords_le_one g)⟩

theorem EncodeRow.inct (g : GA) : EncodeRow.Statement (.inct g) :=
  ⟨encodeVI_row _ g, Nat.le_succ_of_le (extensionWords_le_one g)⟩

theorem EncodeRow.dec (g : GA) : EncodeRow.Statement (.dec g) :=
  ⟨encodeVI_row _ g, Nat.le_succ_of_le (extensionWords_le_one g)⟩

theorem EncodeRow.dect (g : GA) : EncodeRow.Statement (.dect g) :=
  ⟨encodeVI_row _ g, Nat.le_succ_of_le (extensionWords_le_one g)⟩

theorem EncodeRow.bl (g : GA) : EncodeRow.Statement (.bl g) :=
  ⟨encodeVI_row _ g, Nat.le_succ_of_le (extensionWords_le_one g)⟩

theorem EncodeRow.swpb (g : GA) : EncodeRow.Statement (.swpb g) :=
  ⟨encodeVI_row _ g, Nat.le_succ_of_le (extensionWords_le_one g)⟩

theorem EncodeRow.seto (g : GA) : EncodeRow.Statement (.seto g) :=
  ⟨encodeVI_row _ g, Nat.le_succ_of_le (extensionWords_le_one g)⟩

theorem EncodeRow.abs (g : GA) : EncodeRow.Statement (.abs g) :=
  ⟨encodeVI_row _ g, Nat.le_succ_of_le (extensionWords_le_one g)⟩

theorem EncodeRow.li (w : Reg) : EncodeRow.Statement (.li w) := ⟨encodeVIII_row _ w, (by decide : (1 : Nat) ≤ 2)⟩

theorem EncodeRow.ai (w : Reg) : EncodeRow.Statement (.ai w) := ⟨encodeVIII_row _ w, (by decide : (1 : Nat) ≤ 2)⟩

theorem EncodeRow.andi (w : Reg) : EncodeRow.Statement (.andi w) := ⟨encodeVIII_row _ w, (by decide : (1 : Nat) ≤ 2)⟩

theorem EncodeRow.ori (w : Reg) : EncodeRow.Statement (.ori w) := ⟨encodeVIII_row _ w, (by decide : (1 : Nat) ≤ 2)⟩

theorem EncodeRow.ci (w : Reg) : EncodeRow.Statement (.ci w) := ⟨encodeVIII_row _ w, (by decide : (1 : Nat) ≤ 2)⟩

theorem EncodeRow.stwp (w : Reg) : EncodeRow.Statement (.stwp w) := ⟨encodeVIII_row _ w, (by decide : (0 : Nat) ≤ 2)⟩

theorem EncodeRow.stst (w : Reg) : EncodeRow.Statement (.stst w) := ⟨encodeVIII_row _ w, (by decide : (0 : Nat) ≤ 2)⟩

theorem EncodeRow.lwpi : EncodeRow.Statement .lwpi := ⟨by decide, by decide⟩

theorem EncodeRow.limi : EncodeRow.Statement .limi := ⟨by decide, by decide⟩

theorem EncodeRow.idle : EncodeRow.Statement .idle := ⟨by decide, by decide⟩

theorem EncodeRow.rset : EncodeRow.Statement .rset := ⟨by decide, by decide⟩

theorem EncodeRow.rtwp : EncodeRow.Statement .rtwp := ⟨by decide, by decide⟩

theorem EncodeRow.ckon : EncodeRow.Statement .ckon := ⟨by decide, by decide⟩

theorem EncodeRow.ckof : EncodeRow.Statement .ckof := ⟨by decide, by decide⟩

theorem EncodeRow.lrex : EncodeRow.Statement .lrex := ⟨by decide, by decide⟩

theorem EncodeRow.illegal0000 (low : BitVec 9) : EncodeRow.Statement (.illegal0000 low) := ⟨illegal_row _ low, Nat.zero_le 2⟩

theorem EncodeRow.illegal0320 (low : BitVec 5) : EncodeRow.Statement (.illegal0320 low) := ⟨illegal_row _ low, Nat.zero_le 2⟩

theorem EncodeRow.illegal0780 (low : BitVec 7) : EncodeRow.Statement (.illegal0780 low) := ⟨illegal_row _ low, Nat.zero_le 2⟩

theorem EncodeRow.illegal0C00 (low : BitVec 10) : EncodeRow.Statement (.illegal0C00 low) := ⟨illegal_row _ low, Nat.zero_le 2⟩

end Sys2Proof.Laws
end

