-- ==== Sys2Proof/Tests/Slice0.lean ====
section
/-! SUPPORT. The row's own tests: WellFormed refuses what is ill formed; for every instruction a word written out bit by bit
from 30_encoding.md decodes to it; the spec's worked examples, one step each; and for every statement with hypotheses a
witness that they can be met, at the ends of their ranges. -/

namespace Sys2Proof.Tests

open Sys2Proof.Machine Sys2Proof.Claims

set_option maxRecDepth 20000

/-! ## WellFormed (30_encoding.md R180) -/

theorem test_wf_refuses_indexed_by_r0_as_source : (Instr.mov (.idx 0) (.reg 1)).wf = false := by decide

theorem test_wf_refuses_indexed_by_r0_as_destination : (Instr.mov (.reg 1) (.idx 0)).wf = false := by decide

theorem test_wf_refuses_indexed_by_r0_alone : (Instr.clr (.idx 0)).wf = false := by decide

theorem test_wf_refuses_indexed_by_r0_with_register : (Instr.xop (.idx 0) 3).wf = false := by decide

theorem test_wf_refuses_indexed_by_r0_in_cru : (Instr.stcr (.idx 0) 3).wf = false := by decide

theorem test_wf_accepts_symbolic_and_indexed : (Instr.mov .sym (.idx 15)).wf = true := by decide

/-! ## Decoding: the fields are those of R172 to R179, from the most significant bit down -/

theorem test_decode_szc : decodeWord 0b0100000010000001 = .szc (.reg 1) (.reg 2) := by decide
theorem test_decode_szcb : decodeWord 0b0101000100010011 = .szcb (.ind 3) (.reg 4) := by decide
theorem test_decode_s : decodeWord 0b0110000110110101 = .s (.inc 5) (.reg 6) := by decide
theorem test_decode_sb : decodeWord 0b0111100111100000 = .sb .sym (.idx 7) := by decide
theorem test_decode_c : decodeWord 0b1000010000101111 = .c (.idx 15) (.ind 0) := by decide
theorem test_decode_cb : decodeWord 0b1001111001000000 = .cb (.reg 0) (.inc 9) := by decide
theorem test_decode_a : decodeWord 0b1010000010000001 = .a (.reg 1) (.reg 2) := by decide
theorem test_decode_ab : decodeWord 0b1011000010000001 = .ab (.reg 1) (.reg 2) := by decide
theorem test_decode_mov : decodeWord 0b1100100010110001 = .mov (.inc 1) (.idx 2) := by decide
theorem test_decode_movb : decodeWord 0b1101000010100000 = .movb .sym (.reg 2) := by decide
theorem test_decode_soc : decodeWord 0b1110100000001110 = .soc (.reg 14) .sym := by decide
theorem test_decode_socb : decodeWord 0b1111000010000001 = .socb (.reg 1) (.reg 2) := by decide
theorem test_decode_jmp : decodeWord 0b0001000011111111 = .jmp 0xFF := by decide
theorem test_decode_jlt : decodeWord 0b0001000100000100 = .jlt 4 := by decide
theorem test_decode_jle : decodeWord 0b0001001000000001 = .jle 1 := by decide
theorem test_decode_jeq : decodeWord 0b0001001100000101 = .jeq 5 := by decide
theorem test_decode_jhe : decodeWord 0b0001010010000000 = .jhe 0x80 := by decide
theorem test_decode_jgt : decodeWord 0b0001010100000010 = .jgt 2 := by decide
theorem test_decode_jne : decodeWord 0b0001011011111100 = .jne 0xFC := by decide
theorem test_decode_jnc : decodeWord 0b0001011100000011 = .jnc 3 := by decide
theorem test_decode_joc : decodeWord 0b0001100000000110 = .joc 6 := by decide
theorem test_decode_jno : decodeWord 0b0001100100000111 = .jno 7 := by decide
theorem test_decode_jl : decodeWord 0b0001101000001000 = .jl 8 := by decide
theorem test_decode_jh : decodeWord 0b0001101100001001 = .jh 9 := by decide
theorem test_decode_jop : decodeWord 0b0001110000001010 = .jop 10 := by decide
theorem test_decode_sbo : decodeWord 0b0001110100000000 = .sbo 0 := by decide
theorem test_decode_sbz : decodeWord 0b0001111010000001 = .sbz 0x81 := by decide
theorem test_decode_tb : decodeWord 0b0001111100000010 = .tb 2 := by decide
theorem test_decode_coc : decodeWord 0b0010000010000001 = .coc (.reg 1) 2 := by decide
theorem test_decode_czc : decodeWord 0b0010010010010001 = .czc (.ind 1) 2 := by decide
theorem test_decode_xor : decodeWord 0b0010100010000001 = .xor (.reg 1) 2 := by decide
theorem test_decode_xop : decodeWord 0b0010110001100000 = .xop .sym 1 := by decide
theorem test_decode_ldcr : decodeWord 0b0011000011000001 = .ldcr (.reg 1) 3 := by decide
theorem test_decode_stcr : decodeWord 0b0011011000000010 = .stcr (.reg 2) 8 := by decide
theorem test_decode_mpy : decodeWord 0b0011100010000001 = .mpy (.reg 1) 2 := by decide
theorem test_decode_div : decodeWord 0b0011110010000001 = .div (.reg 1) 2 := by decide
theorem test_decode_sra : decodeWord 0b0000100001000001 = .sra 1 4 := by decide
theorem test_decode_srl : decodeWord 0b0000100111110001 = .srl 1 15 := by decide
theorem test_decode_sla : decodeWord 0b0000101000000010 = .sla 2 0 := by decide
theorem test_decode_src : decodeWord 0b0000101101000001 = .src 1 4 := by decide
theorem test_decode_blwp : decodeWord 0b0000010000100000 = .blwp .sym := by decide
theorem test_decode_b : decodeWord 0b0000010001011011 = .b (.ind 11) := by decide
theorem test_decode_x : decodeWord 0b0000010010000001 = .x (.reg 1) := by decide
theorem test_decode_clr : decodeWord 0b0000010011000100 = .clr (.reg 4) := by decide
theorem test_decode_neg : decodeWord 0b0000010100000001 = .neg (.reg 1) := by decide
theorem test_decode_inv : decodeWord 0b0000010101000001 = .inv (.reg 1) := by decide
theorem test_decode_inc : decodeWord 0b0000010110000001 = .inc (.reg 1) := by decide
theorem test_decode_inct : decodeWord 0b0000010111000001 = .inct (.reg 1) := by decide
theorem test_decode_dec : decodeWord 0b0000011000000001 = .dec (.reg 1) := by decide
theorem test_decode_dect : decodeWord 0b0000011001000001 = .dect (.reg 1) := by decide
theorem test_decode_bl : decodeWord 0b0000011010100000 = .bl .sym := by decide
theorem test_decode_swpb : decodeWord 0b0000011011000001 = .swpb (.reg 1) := by decide
theorem test_decode_seto : decodeWord 0b0000011100110001 = .seto (.inc 1) := by decide
theorem test_decode_abs : decodeWord 0b0000011101100001 = .abs (.idx 1) := by decide
theorem test_decode_li : decodeWord 0b0000001000000001 = .li 1 := by decide
theorem test_decode_ai : decodeWord 0b0000001000110001 = .ai 1 := by decide
theorem test_decode_andi : decodeWord 0b0000001001000001 = .andi 1 := by decide
theorem test_decode_ori : decodeWord 0b0000001001100001 = .ori 1 := by decide
theorem test_decode_ci : decodeWord 0b0000001010000001 = .ci 1 := by decide
theorem test_decode_stwp : decodeWord 0b0000001010100001 = .stwp 1 := by decide
theorem test_decode_stst : decodeWord 0b0000001011010001 = .stst 1 := by decide
theorem test_decode_lwpi : decodeWord 0b0000001011101111 = .lwpi := by decide
theorem test_decode_limi : decodeWord 0b0000001100000000 = .limi := by decide
theorem test_decode_idle : decodeWord 0b0000001101000000 = .idle := by decide
theorem test_decode_rset : decodeWord 0b0000001101100001 = .rset := by decide
theorem test_decode_rtwp : decodeWord 0b0000001110000101 = .rtwp := by decide
theorem test_decode_ckon : decodeWord 0b0000001110100000 = .ckon := by decide
theorem test_decode_ckof : decodeWord 0b0000001111011111 = .ckof := by decide
theorem test_decode_lrex : decodeWord 0b0000001111100000 = .lrex := by decide
theorem test_decode_illegal0000 : decodeWord 0b0000000111111111 = .illegal0000 0x1FF := by decide
theorem test_decode_illegal0320 : decodeWord 0b0000001100100000 = .illegal0320 0 := by decide
theorem test_decode_illegal0780 : decodeWord 0b0000011111111111 = .illegal0780 0x7F := by decide
theorem test_decode_illegal0C00 : decodeWord 0b0000110000000000 = .illegal0C00 0 := by decide

theorem test_decode_needs_two_bytes : decode [0xA0] = .error .truncated := rfl

theorem test_decode_high_byte_first : decode [0xA0, 0x81, 0x12] = .ok (.a (.reg 1) (.reg 2), [0x12]) := by decide

theorem test_decodeTableWord : decodeTableWord 16 0xA081 = some (.a (.reg 1) (.reg 2)) := by decide

/-! ## One step: the worked examples of 41_dual_operand.md to 46_immediate_control.md, at PC = 0xA000 with WP = 0x8300 -/

/-- The state a step answers. -/
def after : Host.Outcome State Fault Refusal → State
  | .next t => t
  | .fault e => nomatch e
  | .refused _ => State.reset

/-- In a burst, at PC = 0xA000 with WP = 0x8300, all RAM 0. -/
def ready : State :=
  { State.reset with wp := 0x8300, pc := 0xA000, run := .running, sched := { Scheduler.initial with inBurst := true } }

/-- Words stored from an address on. -/
def withWords (s : State) (a : Word) : List Word → State
  | [] => s
  | w :: t => withWords (s.writeWord a w) (a + 2) t

/-- Registers set. -/
def withRegs (s : State) : List (Nat × Word) → State
  | [] => s
  | r :: t => withRegs (s.writeReg r.1 r.2) t

/-- A program at 0xA000, registers, and ST. -/
def loaded (program : List Word) (regs : List (Nat × Word)) (st : Word) : State :=
  (withRegs (withWords ready 0xA000 program) regs).setSt st

/-- One step from there. -/
def ran (program : List Word) (regs : List (Nat × Word)) (st : Word) : State := after (step (loaded program regs st))

/-- A register, ST and PC, of a state. -/
def shows (s : State) (i : Nat) : Option Word × Word × Word := (s.peekWord (s.ra i), s.st, s.pc)

/-- R231's example. -/
theorem test_a : shows (ran [0xA081] [(1, 0x7FFF), (2, 0x0001)] 0x0000) 2 = (some 0x8000, 0x8800, 0xA002) := by decide

/-- R232's example. -/
theorem test_ab : shows (ran [0xB081] [(1, 0x8000), (2, 0x8012)] 0x0000) 2 = (some 0x0012, 0x3800, 0xA002) := by decide

/-- R233's example. -/
theorem test_c : shows (ran [0x8081] [(1, 0xFFFF), (2, 0x0001)] 0x0000) 2 = (some 0x0001, 0x8000, 0xA002) := by decide

/-- R234's example. -/
theorem test_cb : shows (ran [0x9081] [(1, 0x7F00), (2, 0x8000)] 0x0000) 2 = (some 0x8000, 0x4400, 0xA002) := by decide

/-- R235's example. -/
theorem test_s : shows (ran [0x6081] [(1, 0x0001), (2, 0x0000)] 0x0000) 2 = (some 0xFFFF, 0x8000, 0xA002) := by decide

/-- R236's example. -/
theorem test_sb : shows (ran [0x7081] [(1, 0x0100), (2, 0x8000)] 0x0000) 2 = (some 0x7F00, 0xDC00, 0xA002) := by decide

/-- R237's example. -/
theorem test_soc : shows (ran [0xE081] [(1, 0x00F0), (2, 0x0F00)] 0x0000) 2 = (some 0x0FF0, 0xC000, 0xA002) := by decide

/-- R238's example. -/
theorem test_socb : shows (ran [0xF081] [(1, 0x8000), (2, 0x0100)] 0x0400) 2 = (some 0x8100, 0x8000, 0xA002) := by decide

/-- R239's example. -/
theorem test_szc : shows (ran [0x4081] [(1, 0x00FF), (2, 0x12FF)] 0x0000) 2 = (some 0x1200, 0xC000, 0xA002) := by decide

/-- R240's example. -/
theorem test_szcb : shows (ran [0x5081] [(1, 0xFF00), (2, 0x1234)] 0x0400) 2 = (some 0x0034, 0x2000, 0xA002) := by decide

/-- R241's example. -/
theorem test_mov : shows (ran [0xC081] [(1, 0x8000)] 0x2000) 2 = (some 0x8000, 0x8000, 0xA002) := by decide

/-- R260's example. -/
theorem test_coc : shows (ran [0x2081] [(1, 0x0F00), (2, 0xFF00)] 0x0000) 2 = (some 0xFF00, 0x2000, 0xA002) := by decide

/-- R261's example. -/
theorem test_czc : shows (ran [0x2481] [(1, 0x00FF), (2, 0xFF00)] 0x0000) 2 = (some 0xFF00, 0x2000, 0xA002) := by decide

/-- R262's example. -/
theorem test_xor : shows (ran [0x2881] [(1, 0xFFFF), (2, 0x0F0F)] 0x0000) 2 = (some 0xF0F0, 0x8000, 0xA002) := by decide

/-- R264's example. -/
theorem test_mpy : shows (ran [0x3881] [(1, 0xFFFF), (2, 0xFFFF)] 0x0000) 3 = (some 0x0001, 0x0000, 0xA002) := by decide

/-- R265's example. -/
theorem test_div : shows (ran [0x3C81] [(1, 0x0003), (2, 0x0001), (3, 0x0000)] 0x0800) 2 = (some 0x5555, 0x0000, 0xA002) := by decide

/-- R281. -/
theorem test_jmp : ((ran [0x10FF] [] 0x0000).st, (ran [0x10FF] [] 0x0000).pc) = (0x0000, 0xA000) := by decide

/-- R282. -/
theorem test_jlt : ((ran [0x1104] [] 0x8000).st, (ran [0x1104] [] 0x8000).pc) = (0x8000, 0xA00A) := by decide

/-- R283. -/
theorem test_jle : ((ran [0x1204] [] 0x8000).st, (ran [0x1204] [] 0x8000).pc) = (0x8000, 0xA002) := by decide

/-- R284. -/
theorem test_jeq : ((ran [0x1305] [] 0x2000).st, (ran [0x1305] [] 0x2000).pc) = (0x2000, 0xA00C) := by decide

/-- R285. -/
theorem test_jhe : ((ran [0x1404] [] 0x0000).st, (ran [0x1404] [] 0x0000).pc) = (0x0000, 0xA002) := by decide

/-- R286. -/
theorem test_jgt : ((ran [0x1504] [] 0x4000).st, (ran [0x1504] [] 0x4000).pc) = (0x4000, 0xA00A) := by decide

/-- R287. -/
theorem test_jne : ((ran [0x16FC] [] 0x0000).st, (ran [0x16FC] [] 0x0000).pc) = (0x0000, 0x9FFA) := by decide

/-- R288. -/
theorem test_jnc : ((ran [0x1704] [] 0x1000).st, (ran [0x1704] [] 0x1000).pc) = (0x1000, 0xA002) := by decide

/-- R289. -/
theorem test_joc : ((ran [0x1804] [] 0x1000).st, (ran [0x1804] [] 0x1000).pc) = (0x1000, 0xA00A) := by decide

/-- R290. -/
theorem test_jno : ((ran [0x1904] [] 0x0800).st, (ran [0x1904] [] 0x0800).pc) = (0x0800, 0xA002) := by decide

/-- R291. -/
theorem test_jl : ((ran [0x1A04] [] 0x2000).st, (ran [0x1A04] [] 0x2000).pc) = (0x2000, 0xA002) := by decide

/-- R292. -/
theorem test_jh : ((ran [0x1B04] [] 0x8000).st, (ran [0x1B04] [] 0x8000).pc) = (0x8000, 0xA00A) := by decide

/-- R293. -/
theorem test_jop : ((ran [0x1C04] [] 0x0400).st, (ran [0x1C04] [] 0x0400).pc) = (0x0400, 0xA00A) := by decide

/-- R311's example. -/
theorem test_ldcr : shows (ran [0x30C1] [(12, 0x0024), (1, 0x0500)] 0x0400) 1 = (some 0x0500, 0xC000, 0xA002) := by decide

/-- R312, V44-4's example. -/
theorem test_stcr : shows (ran [0x3482] [(12, 0x0002), (2, 0xFFFF)] 0x0000) 2 = (some 0x03FF, 0xC000, 0xA002) := by decide

/-- R315's example. -/
theorem test_sra : shows (ran [0x0841] [(1, 0x8010)] 0x0000) 1 = (some 0xF801, 0x8000, 0xA002) := by decide

/-- R316's example. -/
theorem test_srl : shows (ran [0x0911] [(1, 0x0001)] 0x0000) 1 = (some 0x0000, 0x3000, 0xA002) := by decide

/-- R317's example. -/
theorem test_sla : shows (ran [0x0A11] [(1, 0x4000)] 0x0000) 1 = (some 0x8000, 0x8800, 0xA002) := by decide

/-- R318's example. -/
theorem test_src : shows (ran [0x0B41] [(1, 0x1234)] 0x0000) 1 = (some 0x4123, 0xC000, 0xA002) := by decide

/-- R314's example. -/
theorem test_sra_by_r0 : shows (ran [0x0801] [(0, 0x0010), (1, 0x8000)] 0x0000) 1 = (some 0xFFFF, 0x9000, 0xA002) := by decide

/-- R331's example. -/
theorem test_b : shows (ran [0x045B] [(11, 0xA010)] 0x0000) 11 = (some 0xA010, 0x0000, 0xA010) := by decide

/-- R332's example. -/
theorem test_x : shows (ran [0x0481] [(1, 0x0582), (2, 0x0009)] 0x0000) 2 = (some 0x000A, 0xC000, 0xA002) := by decide

/-- R333's example. -/
theorem test_clr : shows (ran [0x04C4] [(4, 0x1234)] 0x8000) 4 = (some 0x0000, 0x8000, 0xA002) := by decide

/-- R334's example. -/
theorem test_neg : shows (ran [0x0501] [(1, 0x0001)] 0x0000) 1 = (some 0xFFFF, 0x8000, 0xA002) := by decide

/-- R335's example. -/
theorem test_inv : shows (ran [0x0541] [(1, 0x00FF)] 0x0000) 1 = (some 0xFF00, 0x8000, 0xA002) := by decide

/-- R336's example. -/
theorem test_inc : shows (ran [0x0581] [(1, 0xFFFF)] 0x0000) 1 = (some 0x0000, 0x3000, 0xA002) := by decide

/-- R337's example. -/
theorem test_inct : shows (ran [0x05C1] [(1, 0x7FFF)] 0x0000) 1 = (some 0x8001, 0x8800, 0xA002) := by decide

/-- R338's example. -/
theorem test_dec : shows (ran [0x0601] [(1, 0x0000)] 0x1000) 1 = (some 0xFFFF, 0x8000, 0xA002) := by decide

/-- R339's example. -/
theorem test_dect : shows (ran [0x0641] [(1, 0x0001)] 0x1000) 1 = (some 0xFFFF, 0x8000, 0xA002) := by decide

/-- R340's example. -/
theorem test_bl : shows (ran [0x06A0, 0xA100] [] 0x0000) 11 = (some 0xA004, 0x0000, 0xA100) := by decide

/-- R341's example. -/
theorem test_swpb : shows (ran [0x06C1] [(1, 0x1234)] 0x0000) 1 = (some 0x3412, 0x0000, 0xA002) := by decide

/-- R342's example. -/
theorem test_seto : shows (ran [0x0701] [] 0x0000) 1 = (some 0xFFFF, 0x0000, 0xA002) := by decide

/-- R343's example. -/
theorem test_abs : shows (ran [0x0741] [(1, 0xFFFE)] 0x1800) 1 = (some 0x0002, 0x8000, 0xA002) := by decide

/-- R361's example. -/
theorem test_li : shows (ran [0x0201, 0x8000] [] 0x0000) 1 = (some 0x8000, 0x8000, 0xA004) := by decide

/-- R362's example. -/
theorem test_ai : shows (ran [0x0221, 0x0001] [(1, 0x00FF)] 0x0000) 1 = (some 0x0100, 0xC000, 0xA004) := by decide

/-- R363's example. -/
theorem test_andi : shows (ran [0x0241, 0x00FF] [(1, 0x1234)] 0x0000) 1 = (some 0x0034, 0xC000, 0xA004) := by decide

/-- R364's example. -/
theorem test_ori : shows (ran [0x0261, 0x8000] [(1, 0x1200)] 0x0000) 1 = (some 0x9200, 0x8000, 0xA004) := by decide

/-- R365's example. -/
theorem test_ci : shows (ran [0x0281, 0xFFFF] [(1, 0x0001)] 0x0000) 1 = (some 0x0001, 0x4000, 0xA004) := by decide

/-- R366's example. -/
theorem test_stwp : shows (ran [0x02A1] [] 0x0000) 1 = (some 0x8300, 0x0000, 0xA002) := by decide

/-- R367's example. -/
theorem test_stst : shows (ran [0x02C1] [] 0x2003) 1 = (some 0x2003, 0x2003, 0xA002) := by decide

/-- R372. -/
theorem test_limi : ((ran [0x0300, 0x0002] [] 0x8000).st, (ran [0x0300, 0x0002] [] 0x8000).pc) = (0x8002, 0xA004) := by decide

/-- R330's example, the vector at 0xA008. -/
theorem test_blwp :
    let t := ran [0x0420, 0xA008, 0, 0, 0x8320, 0xA200] [] 0x8000
    (t.wp, t.pc, t.peekWord 0x833A, t.peekWord 0x833C, t.peekWord 0x833E) =
      (0x8320, 0xA200, some 0x8300, some 0xA004, some 0x8000) := by decide

/-- R374's example. -/
theorem test_rtwp :
    let t := after (step ((loaded [0x0380] [(13, 0x8300), (14, 0xA004), (15, 0x81F0)] 0x2003).setRun .running))
    (t.wp, t.pc, t.st) = (0x8300, 0xA004, 0x8000) := by decide

/-- R263's example: the vector at 0x0044 is (0x8340, 0x6000). -/
theorem test_xop :
    let s := (loaded [0x2C60, 0x1234] [] 0x2000).setMd
      { Descriptor.stock with consoleRom := [(0x44, 0x83), (0x45, 0x40), (0x46, 0x60)] }
    let t := after (step s)
    (t.wp, t.pc, t.st, t.peekWord 0x8356, t.peekWord 0x835A, t.peekWord 0x835C, t.peekWord 0x835E) =
      (0x8340, 0x6000, 0x2200, some 0x1234, some 0x8300, some 0xA004, some 0x2000) := by decide

/-- R242's example, the byte 0x07 at the odd address 0xA005. -/
theorem test_movb : shows (ran [0xD0A0, 0xA005, 0x0007] [(2, 0xFFFF)] 0) 2 = (some 0x07FF, 0xC400, 0xA004) := by decide

/-- R213's example, with its data at 0xA010 and its destination at 0x0010 + 0xA010. -/
theorem test_operand_order :
    let t := ran [0xC8B1, 0x0010, 0, 0, 0, 0, 0, 0, 0x1234] [(1, 0xA010), (2, 0xA010)] 0
    (t.peekWord (t.ra 1), t.peekWord 0xA020, t.pc) = (some 0xA012, some 0x1234, 0xA004) := by decide

/-- A byte autoincrement adds 1 (R201). -/
theorem test_autoincrement_byte : shows (ran [0xD0B1] [(1, 0xA000)] 0) 1 = (some 0xA001, 0x8400, 0xA002) := by decide

/-- R201: the destination register is read after the source incremented it. -/
theorem test_autoincrement_both : shows (ran [0xCC71] [(1, 0x8340)] 0) 1 = (some 0x8344, 0x2000, 0xA002) := by decide

/-- R265: divisor not above the high word; nothing is written. -/
theorem test_div_overflow : shows (ran [0x3C81] [(1, 2), (2, 2), (3, 7)] 0) 2 = (some 2, 0x0800, 0xA002) := by decide

/-- R264: with D = 15 the low word goes to the word after the workspace. -/
theorem test_mpy_past_r15 : (ran [0x3BC1] [(1, 0x100), (15, 0x101)] 0).peekWord 0x8320 = some 0x0100 := by decide

/-- R343: the most negative number. -/
theorem test_abs_most_negative : shows (ran [0x0741] [(1, 0x8000)] 0) 1 = (some 0x8000, 0x8800, 0xA002) := by decide

/-- R298's example: R12 = 0x1E00 is base 0xF00, the mapper. -/
theorem test_sbo :
    let t := ran [0x1D00] [(12, 0x1E00)] 0
    (t.mapper.visible, t.tagAt 0x4000, t.tagAt 0x401F, t.tagAt 0x4020) = (true, .mapperRegs, .mapperRegs, .dsr) := by decide

/-- SBZ with a displacement of -1: base 0xF02, the mapping-active bit. -/
theorem test_sbz_negative_displacement :
    (after (step ((loaded [0x1EFF] [(12, 0x1E04)] 0).setMapper
      { Mapper.resetOf Descriptor.stock with active := true }))).mapper.active = false := by decide

/-- R299's example: the VDP's pin 2 is active low. -/
theorem test_tb : (after (step ((loaded [0x1F02] [(12, 0)] 0x2000).setIo { Controller.reset with req := 4 }))).st = 0 := by
  decide

/-- R368's example. -/
theorem test_lwpi : (ran [0x02E0, 0x83E0] [] 0).wp = 0x83E0 := by decide

/-- R375's example. -/
theorem test_idle : ((ran [0x0340] [] 2).run, (ran [0x0340] [] 2).pc) = (.idleWaiting, 0xA002) := by decide

/-- R373's example. -/
theorem test_rset :
    ((ran [0x0360] [] 0x200F).st, (ran [0x0360] [] 0x200F).events) =
      (0x2000, [.unsupportedExtendedOperation 0xA000 .rset]) := by decide

/-- R377's example. -/
theorem test_ckon : (ran [0x03A0] [] 0x200F).events = [.unsupportedExtendedOperation 0xA000 .ckon] := by decide

/-- R378's example. -/
theorem test_ckof : (ran [0x03C0] [] 0x200F).events = [.unsupportedExtendedOperation 0xA000 .ckof] := by decide

/-- R379's example. -/
theorem test_lrex : (ran [0x03E0] [] 0x200F).events = [.unsupportedExtendedOperation 0xA000 .lrex] := by decide

/-- R380's example. -/
theorem test_illegal0000 :
    ((ran [0x0000] [] 0).pc, (ran [0x0000] [] 0).events) = (0xA002, [.invalidOpcode 0xA000 0x0000]) := by decide

theorem test_illegal0320 : (ran [0x033F] [] 0).events = [.invalidOpcode 0xA000 0x033F] := by decide

theorem test_illegal0780 : (ran [0x0780] [] 0).events = [.invalidOpcode 0xA000 0x0780] := by decide

theorem test_illegal0C00 : (ran [0x0FFF] [] 0).events = [.invalidOpcode 0xA000 0x0FFF] := by decide

/-! ## The machine around the instructions -/

/-- The reset sequence of R470 on the stock machine gives `State.reset`. -/
theorem test_reset_sequence : State.reset.hostReset Descriptor.stock = State.reset := by decide

/-- `withFetchWord` places what the next step runs: LI R1,>8000 as the first instruction. -/
theorem test_withFetchWord : (after (step (State.reset.withFetchWord 32 0x80000201))).peekWord 0x83E2 = some 0x8000 := by
  decide

/-- 95_test_vectors.md S6-2, R496's example. -/
theorem test_rle : rleEncode [0, 0, 5, 0, 7] = [0, 2, 5, 0, 1, 7] := by decide

/-- 95_test_vectors.md S6-5 and S6-6. -/
theorem test_rle_malformed : (rleDecode [0, 0], rleDecode [5, 0]) = (none, none) := by decide

/-- 95_test_vectors.md S7: raised twice, cleared once. -/
theorem test_reference_count :
    let c := ({ Controller.reset with en := 4 }.raise 2).raise 2
    (c.intCount, (c.clear 2).intCount, ((c.clear 2).clear 2).intCount) = (1, 0, 0) := by decide

/-- The clock programmed to 100 at cycle 1000. -/
def clocked : Controller := { Controller.reset with timerMode := true, clock := 100, dec := 100, tBase := 1000 }

/-- 95_test_vectors.md T-S1, steps 4 to 6. -/
theorem test_timer :
    ((clocked.timerSample (1000 + 37 * 64)).dec, (clocked.timerSample (1000 + 6399)).dec,
      (clocked.timerSample (1000 + 6400)).dec, (clocked.timerSample (1000 + 6400)).req) = (63, 1, 100, 8) := by decide

/-- 95_test_vectors.md M-S1: 200 mod 128 is 72. -/
theorem test_mapper :
    let s := { ready with
      md := { Descriptor.stock with banks := 128 }
      mapper := { Mapper.resetOf { Descriptor.stock with banks := 128 } with visible := true, active := true }
      tags := [(0x400, .mapperRegs), (0x401, .mapperRegs)] }
    (s.writeWord 0x4006 0xC800).mapper.bank[3] = 72 := by decide

/-! ## Witnesses: the hypotheses of each statement met -/

/-- Whether a step answers a next state. -/
def answers : Host.Outcome State Fault Refusal → Bool
  | .next _ => true
  | .fault _ => false
  | .refused _ => false

theorem eq_next_after {o : Host.Outcome State Fault Refusal} (h : answers o = true) : o = .next (after o) := by
  cases o with
  | next t => rfl
  | fault e => cases h
  | refused e => cases h

theorem forall_mem {p : Word → Prop} [DecidablePred p] {l : List Word} (h : l.all (fun a => decide (p a)) = true) :
    ∀ a ∈ l, p a := fun a ha => of_decide_eq_true (List.all_eq_true.mp h a ha)

theorem ready_inv : ready.Inv := by constructor <;> decide

theorem withWords_inv {s : State} (h : s.Inv) (a : Word) (l : List Word) : (withWords s a l).Inv := by
  induction l generalizing s a with
  | nil => exact h
  | cons w t ih => exact ih (h.writeWord _ _) _

theorem withRegs_inv {s : State} (h : s.Inv) (l : List (Nat × Word)) : (withRegs s l).Inv := by
  induction l generalizing s with
  | nil => exact h
  | cons r t ih => exact ih (h.writeReg _ _)

theorem loaded_inv (p : List Word) (r : List (Nat × Word)) (st : Word) (h : st &&& 0x01F0 = 0) : (loaded p r st).Inv :=
  (withRegs_inv (withWords_inv ready_inv _ _) _).setSt h

theorem witness_DecodeEncode : (Instr.mov (.inc 1) (.idx 2)).wf = true := by decide

theorem witness_OneRowPerWord : (0xA081 : Word) &&& (Instr.a (.reg 1) (.reg 2)).row.2 = (Instr.a (.reg 1) (.reg 2)).row.1 := by
  decide

/-- `A R1,R2` about to be fetched. -/
def atAdd : State := loaded [0xA081] [(1, 0x7FFF), (2, 1)] 0

theorem atAdd_inv : atAdd.Inv := loaded_inv _ _ _ (by decide)

theorem witness_StepRunsDecoded :
    atAdd.pendingCall = none ∧ atAdd.xChain = none ∧ atAdd.enterBurst.loopTurn = .instruction ∧
    atAdd.pc.getLsbD 0 = false ∧ atAdd.peek atAdd.pc = some 0xA0 ∧ atAdd.peek (atAdd.pc + 1) = some 0x81 ∧
    decode [0xA0, 0x81] = .ok (.a (.reg 1) (.reg 2), []) := by decide

/-- `ready` with another run state and scheduler. -/
def scheduled (run : RunState) (v : Scheduler) : State := { ready with run := run, sched := v }

theorem witness_RunLoop_under_way :
    ready.pendingCall = none ∧ ready.xChain = none ∧ ready.sched.inBurst = true ∧ ready.run ≠ .halted := by decide

theorem witness_RunLoop_begins :
    State.reset.pendingCall = none ∧ State.reset.xChain = none ∧
    (State.reset.sched.inBurst = false ∨ State.reset.run = .halted) := by decide

theorem witness_RunLoop_stop :
    let s := scheduled .running { Scheduler.initial with inBurst := true, stopReq := true }
    s.pendingCall = none ∧ s.xChain = none ∧ s.enterBurst.sched.stopReq = true := by decide

theorem witness_RunLoop_breakpoint :
    let s := scheduled .running { Scheduler.initial with inBurst := true, bp := .pcIn [0xA000] }
    s.pendingCall = none ∧ s.xChain = none ∧ s.enterBurst.sched.stopReq = false ∧ s.enterBurst.run = .running ∧
    s.enterBurst.sched.first = false ∧ s.enterBurst.atBreakpoint = true := by decide

theorem witness_RunLoop_idle :
    let s := scheduled .idleWaiting { Scheduler.initial with inBurst := true }
    s.pendingCall = none ∧ s.xChain = none ∧ s.enterBurst.sched.stopReq = false ∧ s.enterBurst.run = .idleWaiting := by
  decide

/-- A burst's first step with a breakpoint that holds; a later one with none that holds. -/
theorem witness_RunLoop_instruction :
    let s := scheduled .running { Scheduler.initial with inBurst := true, first := true, bp := .always }
    let t := scheduled .running { Scheduler.initial with inBurst := true, first := false }
    s.pendingCall = none ∧ s.xChain = none ∧ s.enterBurst.sched.stopReq = false ∧ s.enterBurst.run = .running ∧
    s.enterBurst.sched.first = true ∧ s.atBreakpoint = true ∧
    t.pendingCall = none ∧ t.xChain = none ∧ t.enterBurst.sched.stopReq = false ∧ t.enterBurst.run = .running ∧
    t.enterBurst.sched.first = false ∧ t.enterBurst.atBreakpoint = false := by decide

theorem witness_FrameBoundary :
    (ready.setCycles 49999).cycles - ready.sched.burstStart < ready.md.cyclesPerFrame ∧
    ready.md.cyclesPerFrame ≤ (ready.setCycles 50000).cycles - ready.sched.burstStart := by decide

/-- R1 holds `X R1`, and a chain is open at it. -/
def hung (m : XMark) (queue : List HostCall) : State :=
  ((loaded [] [(1, 0x0481)] 0).setXChain (some ⟨0x0481, 8, m⟩)).setSched { Scheduler.initial with queue := queue }

/-- No call waits; one waits that a chain does not admit. -/
theorem witness_XChainHangs :
    (hung .fresh []).pendingCall = none ∧ (hung ⟨3, none, true⟩ [.stop]).pendingCall = none ∧
    (hung .fresh []).xChain = some ⟨0x0481, 8, .fresh⟩ ∧ decodeWord 0x0481 = .x (.reg 1) ∧
    (hung .fresh []).peekWord (evenAddr (regAddr (hung .fresh []) (1 : Reg).toNat)) = some 0x0481 := by decide

theorem witness_XChainHangs_repeats :
    let s := loaded [] [(1, 0x0481)] 0
    let u := (trail s (.reg 1) 0).2.1
    let v := (trail s (.reg 1) 1).2.1
    0 < 1 ∧ (∀ k, k < 1 → isX (decodeWord (trail s (.reg 1) k).1) = true) ∧
    (trail s (.reg 1) 1).1 = (trail s (.reg 1) 0).1 ∧ v.pc = u.pc ∧ v.cartBank = u.cartBank ∧ v.mapper = u.mapper ∧
    v.pool = u.pool ∧ v.scratch = u.scratch ∧ v.draws = u.draws := by
  refine ⟨by decide, ?_, by decide⟩
  intro k hk
  obtain rfl : k = 0 := by omega
  decide

/-- A reset waits in a chain marked endless; a stop waits in it. -/
theorem witness_ResetEndsHang :
    (hung ⟨3, none, true⟩ [.reset Descriptor.stock]).xChain = some ⟨0x0481, 8, ⟨3, none, true⟩⟩ ∧
    (hung ⟨3, none, true⟩ [.reset Descriptor.stock]).sched.queue = .reset Descriptor.stock :: [] ∧
    Hang (hung ⟨3, none, true⟩ [.reset Descriptor.stock]) ⟨0x0481, 8, ⟨3, none, true⟩⟩ ∧
    (hung ⟨3, none, true⟩ [.stop]).pendingCall = none := ⟨rfl, rfl, .inl rfl, by decide⟩

theorem hung_operand : wordOperand (hung .fresh [.reset Descriptor.stock]) (.reg 1) =
    (0x8302, 0x0481, hung .fresh [.reset Descriptor.stock]) := by
  have h : (hung .fresh [.reset Descriptor.stock]).readWord 0x8302 = (0x0481, hung .fresh [.reset Descriptor.stock]) := by
    rw [readWord_of_peek (v := 0x0481) (by decide), State.chargeBus, if_neg (by decide)]
  exact congrArg (fun p => ((0x8302 : Word), p)) h

/-- A chain that is not marked and never ends. -/
theorem witness_ResetEndsHang_unmarked :
    Hang (hung .fresh [.reset Descriptor.stock]) ⟨0x0481, 8, .fresh⟩ := by
  refine .inr fun n => ?_
  have h : ∃ o, trailFrom (0x0481, hung .fresh [.reset Descriptor.stock], 8) n =
      (0x0481, hung .fresh [.reset Descriptor.stock], o) := by
    induction n with
    | zero => exact ⟨8, rfl⟩
    | succ n ih =>
      obtain ⟨o, ih⟩ := ih
      have hd : decodeWord 0x0481 = .x (.reg 1) := by decide
      simp only [trailFrom, ih, hd, hung_operand]
      exact ⟨_, rfl⟩
  obtain ⟨o, h⟩ := h
  rw [h]
  show isX (decodeWord 0x0481) = true
  decide

/-- A chain that is not marked and ends: no reset is served. -/
theorem witness_ResetEndsHang_finite :
    let s := (((loaded [] [(1, 0x0582)] 0).setXChain (some ⟨0x0481, 8, .fresh⟩)).setSched
      { Scheduler.initial with queue := [.reset Descriptor.stock] })
    ¬ (Hang s ⟨0x0481, 8, .fresh⟩ ∧ ∃ md, HostCall.reset Descriptor.stock = .reset md) := by
  rintro s ⟨h | h, -⟩
  · exact absurd h (by decide)
  · exact absurd (h 1) (by decide)

theorem witness_ResetEndsHang_step :
    let s := hung ⟨3, none, true⟩ [.reset Descriptor.stock]
    descriptorOk Descriptor.stock = true ∧ step s = .next (s.serve (.reset Descriptor.stock) []) :=
  ⟨stock_descriptorOk, rfl⟩

/-- The chain whose register holds itself, a reset waiting, not marked yet. -/
theorem witness_ResetEndsHang_served :
    let s := hung .fresh [.reset Descriptor.stock]
    s.xChain = some ⟨0x0481, 8, .fresh⟩ ∧ s.sched.queue = .reset Descriptor.stock :: [] ∧
    decodeWord 0x0481 = .x (.reg 1) ∧ s.peekWord (evenAddr (regAddr s (1 : Reg).toNat)) = some 0x0481 := by decide

theorem witness_PcAdvance :
    branches (.mov .sym (.idx 2)) = false ∧ atAdd.pc.getLsbD 0 = false ∧
    exec (.mov .sym (.idx 2)) atAdd = .next (after (exec (.mov .sym (.idx 2)) atAdd)) := ⟨rfl, by decide, eq_next_after (by decide)⟩

theorem witness_ExecFrame :
    exec (.a (.reg 1) (.reg 2)) atAdd = .next (after (exec (.a (.reg 1) (.reg 2)) atAdd)) ∧
    isX (.a (.reg 1) (.reg 2)) = false ∧ writesWp (.a (.reg 1) (.reg 2)) = false ∧
    Instr.a (.reg 1) (.reg 2) ≠ .idle ∧ suppresses (.a (.reg 1) (.reg 2)) = false ∧
    reachesCru (.a (.reg 1) (.reg 2)) = false ∧ writesCru (.stcr (.reg 2) 8) = false := ⟨eq_next_after (by decide), by decide⟩

/-- `CLR R1` stores at 0x8302 and 0x8303; the byte at 0x8304 and, through its mirror, the one at 0x8004 are not stored to. -/
theorem witness_MemoryFrame :
    ready.Inv ∧ isX (.clr (.reg 1)) = false ∧ (∀ a ∈ stores ready (.clr (.reg 1)), ¬ Selector ready a) ∧
    exec (.clr (.reg 1)) ready = .next (after (exec (.clr (.reg 1)) ready)) ∧
    (∀ a ∈ stores ready (.clr (.reg 1)), ready.home a ≠ .scratch 4) ∧ writesCru (.clr (.reg 1)) = false ∧
    (∀ a ∈ stores ready (.clr (.reg 1)), ready.home a ≠ ready.home 0x8004) :=
  ⟨ready_inv, rfl, by unfold Selector; exact forall_mem (by decide), eq_next_after (by decide), forall_mem (by decide), rfl,
    forall_mem (by decide)⟩

theorem witness_MemoryFrame_cru :
    ready.Inv ∧ isX (.sbo 0) = false ∧ (∀ a ∈ stores ready (.sbo 0), ¬ Selector ready a) ∧
    exec (.sbo 0) ready = .next (after (exec (.sbo 0) ready)) ∧ writesCru (.sbo 0) = true ∧
    (∀ a ∈ stores ready (.sbo 0), ready.home a ≠ .scratch 4) :=
  ⟨ready_inv, rfl, by unfold Selector; exact forall_mem (by decide), eq_next_after (by decide), rfl, forall_mem (by decide)⟩

theorem witness_EffectiveAddress :
    atAdd.Inv ∧ atAdd.peekWord atAdd.pc = some 0xA081 ∧ atAdd.peekWord (regAddr atAdd (1 : Reg).toNat) = some 0x7FFF ∧
    Ram atAdd (regAddr atAdd (1 : Reg).toNat) := ⟨atAdd_inv, by decide, by decide, by unfold Ram; decide⟩

/-- A machine with a four-bank cartridge, no GROM region, and the page registers visible and active. -/
def banked : Descriptor :=
  { Descriptor.stock with
    regionMap := [⟨0x980, 0x9FF, .unused⟩] ++ stockRegionMap 4, cartBanks := 4, cartMask := 3, cartRom := [(5, 0x11), (0x7FFF, 0x22)] }

/-- `ready` on that machine. -/
def paged : State :=
  { ready with
    md := banked
    mapper := { (Mapper.resetOf banked).writeActive banked true with visible := true }
    tags := [(0x400, .mapperRegs), (0x401, .mapperRegs)] }

theorem paged_inv : paged.Inv := by constructor <;> decide

theorem witness_DataReads_console_rom :
    ready.tagAt 0x0000 = .consoleRom ∧ ready.tagAt 0x1FFF = .consoleRom ∧ ready.peek 0x0000 = some 0x83 ∧
    ready.peek 0x0001 = some 0xE0 := by decide

theorem witness_DataReads_ram :
    ready.tagAt 0x8000 = .scratch ∧ ready.tagAt 0x83FF = .scratch ∧ ready.tagAt 0x2000 = .expRam ∧
    ready.tagAt 0x3FFF = .expRam ∧ ready.tagAt 0xA000 = .expRam ∧ ready.tagAt 0xFFFF = .expRam := by decide

theorem witness_DataReads_cartridge :
    ready.tagAt 0x6000 = .cartPlain ∧ ready.tagAt 0x7FFF = .cartPlain ∧ (0x7FFF : Word).toNat % 8192 < ready.md.cartBanks * 8192 ∧
    paged.tagAt 0x6000 = .cartBanked ∧ paged.tagAt 0x7FFF = .cartBanked ∧ (paged.setCartBank 3).cartBank < banked.cartBanks := by
  decide

/-- The ends of the GROM window where a map leaves it unused; a cartridge bank that its image does not have. -/
theorem witness_DataReads_free :
    paged.tagAt 0x9800 = .unused ∧ paged.tagAt 0x9FFF = .unused ∧ (paged.setCartBank 4).tagAt 0x6000 = .cartBanked ∧
    (paged.setCartBank 4).peek 0x6000 = none ∧ (paged.setCartBank 4).peekWord (evenAddr 0x7FFF) = none := by decide

theorem witness_DataReads_page_registers :
    paged.tagAt (evenAddr 0x4000) = .mapperRegs ∧ paged.tagAt (evenAddr 0x401F) = .mapperRegs := by decide

theorem witness_RamStores :
    ready.Inv ∧ Ram ready 0x83FF ∧ Ram ready (evenAddr 0x83FF) ∧ Ram ready 0x3FFF ∧ Ram ready (evenAddr 0xFFFF) ∧
    ready.tagAt 0x8000 = .scratch ∧ ready.tagAt 0x8300 = .scratch :=
  ⟨ready_inv, by unfold Ram; decide, by unfold Ram; decide, by unfold Ram; decide, by unfold Ram; decide, by decide, by decide⟩

theorem witness_RomStores :
    ready.tagAt 0x1FFF = .consoleRom ∧ ready.tagAt 0x6000 = .cartPlain ∧ paged.tagAt 0x9800 = .unused ∧
    paged.tagAt 0x9FFF = .unused ∧ paged.tagAt 0x7FFF = .cartBanked := by decide

theorem witness_PageRegisterStores_word :
    paged.tagAt 0x4006 = .mapperRegs ∧ paged.mapper.visible = true ∧ paged.mapper.active = true ∧
    (3 : Fin 16) ∈ paged.md.swappable ∧ paged.tagAt 0x4000 = .mapperRegs ∧
    ¬ (paged.mapper.active = true ∧ (0 : Fin 16) ∈ paged.md.swappable) := by decide

theorem witness_PageRegisterStores_byte :
    paged.tagAt 0x401E = .mapperRegs ∧ (0x401E : Word).getLsbD 0 = false ∧
    (0x1200 : Word).extractLsb' 0 8 = paged.mapper.reqw[(15 : Fin 16)].extractLsb' 0 8 ∧
    paged.tagAt 0x401F = .mapperRegs ∧ (0x401F : Word).getLsbD 0 = true ∧
    (0x0F34 : Word).extractLsb' 8 8 = paged.mapper.reqw[(15 : Fin 16)].extractLsb' 8 8 := by decide

theorem witness_PageRegisterStores_hidden :
    let s := paged.setMapper (Mapper.resetOf banked)
    s.tagAt 0x4006 = .mapperRegs ∧ s.mapper.visible = false := by decide

theorem witness_MappingActiveBit :
    pinOf ready.md (ready.md.samsCruBase + 1) = none ∧ (2 : Fin 16) ∈ ready.md.swappable ∧
    (0 : Fin 16) ∉ ready.md.swappable := by decide

theorem witness_MappingRoundTrip :
    pinOf paged.md (paged.md.samsCruBase + 1) = none ∧ paged.mapper.active = true ∧
    ∀ r ∈ paged.md.swappable, paged.mapper.bank[r] = samsIndex paged.md paged.mapper.reqw[r] % paged.md.banks := by decide

theorem witness_VisibilityBit :
    paged.Inv ∧ pinOf paged.md paged.md.samsCruBase = none ∧
    0x4000 ≤ (0x401F : Word).toNat ∧ (0x401F : Word).toNat ≤ 0x401F ∧ ¬ (0x4020 : Word).toNat ≤ 0x401F :=
  ⟨paged_inv, by decide, by decide, by decide, by decide⟩

/-- A status read of the VDP, with no reaction to come and with one. -/
theorem witness_CollaboratorAccess :
    isCollaborator (ready.tagAt 0x8802) = true ∧ ready.devInputs = [] ∧ (0x8802 : Word).getLsbD 0 = false ∧
    ready.md.readBeforeWrite = false ∧ isCollaborator ((ready.setDevInputs [.clear 2]).tagAt 0x8802) = true := by decide

theorem witness_CruDispatch :
    pinOf ready.md 0x3FF = some 31 ∧ pinOf ready.md 0xF00 = none ∧ (0xF00 : CruAddr) = ready.md.samsCruBase ∧
    pinOf ready.md 0xF01 = none ∧ (0xF01 : CruAddr) = ready.md.samsCruBase + 1 ∧ pinOf ready.md 0x400 = none ∧
    (0x400 : CruAddr) ≠ ready.md.samsCruBase ∧ (0x400 : CruAddr) ≠ ready.md.samsCruBase + 1 ∧ ready.cruInputs = [] := by decide

/-- The disk controller's enable bit, wherever it is, retags granules 0x400 to 0x5FF. -/
theorem witness_CruDispatch_enable :
    (ready.setCruInputs [.retag true 0x400 0x5FF]).Inv ∧
    (ready.setCruInputs [.retag true 0x400 0x5FF]).cruInputs = .retag true 0x400 0x5FF :: [] ∧
    (ready.setCruInputs [.quiet]).cruInputs = .quiet :: [] ∧ ready.granuleTag 0x400 = .dsr ∧ ready.granuleTag 0x5FF = .dsr :=
  ⟨ready_inv.setCruInputs _, rfl, rfl, by decide, by decide⟩

theorem witness_ReferenceCount :
    Controller.reset.intCount = activePins Controller.reset.req Controller.reset.en := by decide

/-- `ready` with the 9901 in timer mode. -/
def timing : State := ready.setIo { Controller.reset with timerMode := true }

theorem timing_inv : timing.Inv := by constructor <;> decide

/-- The pins of each clause: 0; 1, 2; 3; 4, 14, 15; 16, 17; 18, 20; 21; 22, 31. -/
theorem witness_PinWrites :
    ready.Inv ∧ (ready.io.timerSample ready.cycles).timerMode = false ∧
    timing.Inv ∧ (timing.io.timerSample timing.cycles).timerMode = true ∧
    ∀ p ∈ [0, 1, 2, 3, 4, 14, 15, 16, 17, 18, 20, 21, 22, 31], p < 32 :=
  ⟨ready_inv, by decide, timing_inv, by decide, by decide⟩

theorem witness_PinReads :
    (ready.io.timerSample ready.cycles).timerMode = false ∧ (timing.io.timerSample timing.cycles).timerMode = true ∧
    6 ≤ (({ Controller.reset with col := 6 } : Controller).timerSample 0).col.toNat ∧
    ∀ p ∈ [0, 1, 2, 3, 5, 6, 10, 11, 14, 15, 16, 31], p < 32 := by decide

/-- N from 0 to K - 1, K and more; the last cycle of a period. -/
theorem witness_TimerProperties :
    0 < clocked.clock.toNat ∧ clocked.dec = clocked.clock ∧ clocked.tBase = 1000 ∧ clocked.tDelta = 0 ∧ 63 < 64 ∧
    99 < clocked.clock.toNat ∧ clocked.clock.toNat ≤ 100 ∧
    clocked.tBase ≤ 1000 ∧ 1000 ≤ 1063 ∧ clocked.tDelta ≤ (1000 - clocked.tBase) / 64 := by decide

theorem witness_ContextSwitchSaves :
    ready.Inv ∧ Ram ready (evenAddr 0x83E1 + 26) ∧ Ram ready (evenAddr 0x83E1 + 28) ∧ Ram ready (evenAddr 0x83E1 + 30) ∧
    (∀ a ∈ contextStores 0x83E1, ready.home a ≠ ready.home 0x8300) :=
  ⟨ready_inv, by unfold Ram; decide, by unfold Ram; decide, by unfold Ram; decide, forall_mem (by decide)⟩

/-- `BLWP *R1` through a vector in the scratchpad. -/
def atBlwp : State := loaded [0x0411] [(1, 0x8308), (4, 0x8320), (5, 0xA200)] 0x8000

theorem witness_SwitchThenReturn_blwp :
    let t := after (exec (.blwp (.ind 1)) atBlwp)
    atBlwp.Inv ∧ exec (.blwp (.ind 1)) atBlwp = .next t ∧ Ram t (t.wp + 26) ∧ Ram t (t.wp + 28) ∧ Ram t (t.wp + 30) ∧
    exec .rtwp t = .next (after (exec .rtwp t)) :=
  ⟨loaded_inv _ _ _ (by decide), eq_next_after (by decide), by unfold Ram; decide, by unfold Ram; decide, by unfold Ram; decide,
    eq_next_after (by decide)⟩

/-- `XOP *R1,1` through the vector (0x8340, 0xA200) at 0x0044. -/
def atXop : State :=
  (loaded [0x2C51] [(1, 0x8308)] 0x8000).setMd
    { Descriptor.stock with consoleRom := [(0x44, 0x83), (0x45, 0x40), (0x46, 0xA2)] }

theorem atXop_inv : atXop.Inv := by constructor <;> decide

theorem witness_SwitchThenReturn_xop :
    let t := after (exec (.xop (.ind 1) 1) atXop)
    atXop.Inv ∧ exec (.xop (.ind 1) 1) atXop = .next t ∧ Ram t (t.wp + 26) ∧ Ram t (t.wp + 28) ∧ Ram t (t.wp + 30) ∧
    t.tagAt (t.wp + 22) ≠ .mapperRegs ∧ exec .rtwp t = .next (after (exec .rtwp t)) :=
  ⟨atXop_inv, eq_next_after (by decide), by unfold Ram; decide, by unfold Ram; decide, by unfold Ram; decide, by decide,
    eq_next_after (by decide)⟩

/-- The level-1 vector (0x83C0, 0x0900), pin 2 requested and enabled, IM = 1: as low as a taken request allows. -/
def requested : State :=
  { ready with
    md := { Descriptor.stock with consoleRom := [(4, 0x83), (5, 0xC0), (6, 0x09)] }
    st := 0x0001
    io := { Controller.reset with req := 4, en := 4, intCount := 1 } }

theorem requested_inv : requested.Inv := by constructor <;> decide

theorem witness_SwitchThenReturn_interrupt :
    let t := requested.interruptEntry 1
    requested.Inv ∧ Ram t (t.wp + 26) ∧ Ram t (t.wp + 28) ∧ Ram t (t.wp + 30) :=
  ⟨requested_inv, by unfold Ram; decide, by unfold Ram; decide, by unfold Ram; decide⟩

theorem witness_InterruptCheck_suppressed : (ready.setNoIntCheck true).noIntCheck = true := rfl

theorem witness_InterruptCheck_quiet :
    ready.noIntCheck = false ∧ (ready.io.timerSample ready.cycles).intCount = 0 := by decide

theorem witness_InterruptCheck_masked :
    (requested.setSt 0).noIntCheck = false ∧ (requested.io.timerSample requested.cycles).intCount ≠ 0 ∧
    (requested.setSt 0).st.toNat % 16 < requested.md.cpuIntLevel := by decide

theorem witness_InterruptCheck_taken :
    requested.noIntCheck = false ∧ (requested.io.timerSample requested.cycles).intCount ≠ 0 ∧
    requested.md.cpuIntLevel ≤ requested.st.toNat % 16 := by decide

theorem witness_StepKeepsInvariants : atAdd.Inv ∧ step atAdd = .next (after (step atAdd)) := ⟨atAdd_inv, eq_next_after (by decide)⟩

theorem witness_ResetSequence :
    regionInit Descriptor.stock 0 = .consoleRom ∧ (2 : Fin 16) ∈ Descriptor.stock.swappable ∧
    Descriptor.stock.banks = ready.md.banks := by decide

/-- A code with a pair in it. -/
theorem witness_RunLengthCode : 0 < 1 ∧ rleDecode [0, 3, 5] = some [0, 0, 0, 5] := by decide

/-- `ready` on a machine of 16 banks, no capacity set. -/
def small : State := { ready with md := { Descriptor.stock with banks := 16 } }

theorem rleEncodeFrom_length (z : Nat) (l : List Nat) : (rleEncodeFrom z l).length ≤ 3 * l.length + 2 := by
  induction l generalizing z with
  | nil => unfold rleEncodeFrom; split <;> simp
  | cons w t ih =>
    unfold rleEncodeFrom
    have h0 := ih 0
    have h1 := ih (z + 1)
    split
    · simp only [List.length_cons]; omega
    · split <;> simp only [List.length_cons] <;> omega

/-- A machine whose pool code always fits its capacity. -/
def roomy : State := { ready with md := { Descriptor.stock with rleCapacity := some 1000000 } }

theorem groupWords_length (l : List Byte) : 4 * (groupWords l).length ≤ l.length := by
  induction l using groupWords.induct with
  | case1 b0 b1 b2 b3 t ih => simp only [groupWords, List.length_cons]; omega
  | case2 => simp [groupWords]
  | case3 => simp [groupWords]
  | case4 => simp [groupWords]
  | case5 => simp [groupWords]

theorem roomy_inv : roomy.Inv := by constructor <;> decide

theorem witness_SaveAndLoad_saved : roomy.Inv ∧ roomy.saveState true = .saved roomy.image ∧ roomy.md = roomy.md := by
  refine ⟨roomy_inv, ?_, rfl⟩
  have h1 := rleEncodeFrom_length 0 roomy.poolWords
  have h2 := groupWords_length (roomy.pool.toBytes 0 (roomy.md.banks * 4096))
  rw [Memory.toBytes_length] at h2
  have h3 : roomy.md.banks * 4096 = 262144 := rfl
  have h4 : roomy.poolWords = groupWords (roomy.pool.toBytes 0 (roomy.md.banks * 4096)) := rfl
  have h5 : rleCapacityOf roomy.md = 1000000 := rfl
  have h6 : (rleEncode roomy.poolWords).length ≤ rleCapacityOf roomy.md := by
    rw [← h4] at h2
    rw [h5]
    exact Nat.le_trans h1 (by omega)
  simp only [State.saveState, h6, decide_true, Bool.and_self, if_pos]

theorem witness_SaveAndLoad_capacity : ready.md.rleCapacity = none := rfl

/-- An image of `ready` with another version, and with a pool code that breaks off. -/
theorem witness_SaveAndLoad_malformed :
    let image : SaveImage := { ready.image with pool := [5, 0] }
    ({ image with version := 2 } : SaveImage).version ≠ ready.md.saveVersion ∧ image.version = ready.md.saveVersion ∧
    rleDecode image.pool = none ∧ ({ image with banks := 63 } : SaveImage).banks ≠ ready.md.banks := by
  refine ⟨?_, rfl, ?_, ?_⟩ <;> decide

/-- A pool code of one word. -/
theorem witness_SaveAndLoad_short :
    let image : SaveImage := { ready.image with pool := [5] }
    image.version = ready.md.saveVersion ∧ rleDecode image.pool = some [5] ∧ [5].length ≠ ready.md.banks * 1024 := by
  refine ⟨rfl, ?_, ?_⟩ <;> decide

theorem witness_HostCalls : 1 ≤ 1 ∧ 16 ≤ 16 ∧ (0 = 0 ∨ 16 < 0) ∧ (17 = 0 ∨ 16 < 17) := by decide

/-- A call waits between bursts, while a burst stands open in a halted machine, and while one is under way. -/
theorem witness_HostCalls_queue :
    let wait : Scheduler := { Scheduler.initial with queue := [.stop] }
    let s := scheduled .running wait
    let t := scheduled .halted { wait with inBurst := true }
    let u := scheduled .running { wait with inBurst := true }
    s.xChain = none ∧ s.sched.queue = .stop :: [] ∧ s.sched.inBurst = false ∧
    t.xChain = none ∧ t.sched.queue = .stop :: [] ∧ t.run = .halted ∧
    u.xChain = none ∧ u.sched.inBurst = true ∧ u.run ≠ .halted ∧ ready.sched.queue = [] ∧ 0 ≠ 1 ∧ 3 ≠ 2 := by decide

/-- The stock descriptor meets the constraints, one of 15 banks does not. -/
theorem witness_HostCalls_reset :
    (16 ≤ Descriptor.stock.banks ∧
      (∀ (q : Fin 16) (g : Nat), g / 256 = q.val → regionInit Descriptor.stock g = .expRam → q ∈ Descriptor.stock.swappable) ∧
      Descriptor.stock.samsCruBase ≤ 0xFFE ∧ 1 ≤ Descriptor.stock.cpuIntLevel ∧ Descriptor.stock.cpuIntLevel ≤ 15 ∧
      0 < Descriptor.stock.idleQuantum ∧ 0 < Descriptor.stock.cyclesPerFrame) ∧
    ¬ 16 ≤ ({ Descriptor.stock with banks := 15 } : Descriptor).banks :=
  ⟨(descriptorOk_iff _).mp stock_descriptorOk, by decide⟩

theorem witness_Divide :
    let s := loaded [] [(1, 2), (2, 2), (3, 0)] 0
    let u := loaded [] [(1, 3), (2, 2), (3, 0)] 0
    (wordOperand s (.reg 1)).2.1.toNat ≤ ((wordOperand s (.reg 1)).2.2.readWord (regAddr s 2)).1.toNat ∧
    ((wordOperand u (.reg 1)).2.2.readWord (regAddr u 2)).1.toNat < (wordOperand u (.reg 1)).2.1.toNat := by decide

/-- Counts 1 and 8 are byte transfers, 9 and 16 word transfers. -/
theorem witness_LoadCru : transferCount 1 ≤ 8 ∧ transferCount 8 ≤ 8 ∧ 8 < transferCount 9 ∧ 8 < transferCount 0 := by decide

theorem witness_StoreCru : transferCount 1 ≤ 8 ∧ transferCount 8 ≤ 8 ∧ 8 < transferCount 9 ∧ 8 < transferCount 0 := by decide

/-- R1 and R2 hold `X R2` and `INC R3`: the chain from `X R1` ends at its second word. -/
theorem witness_Execute_nested :
    let s := loaded [] [(1, 0x0482), (2, 0x0583)] 0
    1 < 16 ∧ (∀ k, k < 1 → isX (decodeWord (trail s (.reg 1) k).1) = true) ∧
    isX (decodeWord (trail s (.reg 1) 1).1) = false := by
  refine ⟨by decide, ?_, by decide⟩
  intro k hk
  obtain rfl : k = 0 := by omega
  decide

/-- R1 holds `X R1`. -/
theorem witness_Execute_endless :
    let s := loaded [] [(1, 0x0481)] 0
    ∀ k, k < 16 → isX (decodeWord (trail s (.reg 1) k).1) = true := by
  intro s
  have h : ∀ k ∈ List.range 16, isX (decodeWord (trail s (.reg 1) k).1) = true := by decide
  intro k hk
  exact h k (List.mem_range.mpr hk)

/-- An open chain that ends at once; one that ends at its second word; one that goes on. -/
theorem witness_Execute_resumed :
    let open_ (r1 w : Word) : State := (loaded [] [(1, r1)] 0).setXChain (some ⟨w, 8, .fresh⟩)
    let s := open_ 0x0583 0x0583
    let t := open_ 0x0583 0x0481
    let u := open_ 0x0481 0x0481
    s.pendingCall = none ∧ isX (decodeWord (trailFrom (0x0583, { s with xChain := none }, 8) 0).1) = false ∧
    t.pendingCall = none ∧ (∀ k ∈ [0], isX (decodeWord (trailFrom (0x0481, { t with xChain := none }, 8) k).1) = true) ∧
    isX (decodeWord (trailFrom (0x0481, { t with xChain := none }, 8) 1).1) = false ∧
    u.pendingCall = none ∧
    (∀ k ∈ List.range 16, isX (decodeWord (trailFrom (0x0481, { u with xChain := none }, 8) k).1) = true) := by decide

theorem witness_AbsoluteValue :
    (wordOperand (loaded [] [(1, 0x8000)] 0) (.reg 1)).2.1.toInt < 0 ∧
    0 ≤ (wordOperand (loaded [] [(1, 0x0000)] 0) (.reg 1)).2.1.toInt := by decide

theorem witness_IllegalWords :
    (0x01FF : Word).toNat ≤ 0x01FF ∧ (0x0320 ≤ (0x033F : Word).toNat ∧ (0x033F : Word).toNat ≤ 0x033F) ∧
    (0x0780 ≤ (0x0780 : Word).toNat ∧ (0x0780 : Word).toNat ≤ 0x07FF) ∧
    (0x0C00 ≤ (0x0FFF : Word).toNat ∧ (0x0FFF : Word).toNat ≤ 0x0FFF) := by decide

end Sys2Proof.Tests
end

section
/-! PROOFS. The mapper's two CRU bits (20_memory.md R133, R134, R138). -/

namespace Sys2Proof.Machine

/-! ## One swappable region is evaluated (20_memory.md R134) -/

/-- The bank a swappable region has once the mapping-active bit is `b`. -/
def Mapper.bankUnder (m : Mapper) (md : Descriptor) (b : Bool) (r : Fin 16) : Nat :=
  if b then samsIndex md m.reqw[r] % md.banks else r.val % md.banks

/-- One turn of the loop of `Mapper.writeActive`. -/
def Mapper.evalRegion (m : Mapper) (md : Descriptor) (b : Bool) (r : Fin 16) : Mapper :=
  if b then m.install md r else m.identity md r

theorem Mapper.writeActive_eq_foldl (m : Mapper) (md : Descriptor) (b : Bool) :
    m.writeActive md b = md.swappable.foldl (fun m r => m.evalRegion md b r) { m with active := b } := rfl

theorem Mapper.evalRegion_reqw (m : Mapper) (md : Descriptor) (b : Bool) (r : Fin 16) :
    (m.evalRegion md b r).reqw = m.reqw := by cases b <;> rfl

theorem Mapper.evalRegion_active (m : Mapper) (md : Descriptor) (b : Bool) (r : Fin 16) :
    (m.evalRegion md b r).active = m.active := by cases b <;> rfl

theorem Mapper.evalRegion_hwm (m : Mapper) (md : Descriptor) (b : Bool) (r : Fin 16) :
    (m.evalRegion md b r).hwm = if b then max m.hwm (m.bankUnder md b r) else m.hwm := by cases b <;> rfl

theorem Mapper.evalRegion_bank (m : Mapper) (md : Descriptor) (b : Bool) (r q : Fin 16) :
    (m.evalRegion md b r).bank[q] = if r = q then m.bankUnder md b r else m.bank[q] := by
  cases b with
  | true => exact m.install_bank md r q
  | false => exact m.identity_bank md r q

theorem Mapper.bankUnder_evalRegion (m : Mapper) (md : Descriptor) (b : Bool) (r q : Fin 16) :
    (m.evalRegion md b r).bankUnder md b q = m.bankUnder md b q := by
  simp only [Mapper.bankUnder, Mapper.evalRegion_reqw]

/-! ## The loop over the swappable regions -/

theorem Mapper.foldl_evalRegion_reqw (md : Descriptor) (b : Bool) (l : List (Fin 16)) (m : Mapper) :
    (l.foldl (fun m r => m.evalRegion md b r) m).reqw = m.reqw := by
  induction l generalizing m with
  | nil => rfl
  | cons r l ih => rw [List.foldl_cons, ih, evalRegion_reqw]

theorem Mapper.foldl_evalRegion_active (md : Descriptor) (b : Bool) (l : List (Fin 16)) (m : Mapper) :
    (l.foldl (fun m r => m.evalRegion md b r) m).active = m.active := by
  induction l generalizing m with
  | nil => rfl
  | cons r l ih => rw [List.foldl_cons, ih, evalRegion_active]

/-- Evaluating a region twice gives it the same bank, so the order of the list and its repetitions do not matter. -/
theorem Mapper.foldl_evalRegion_bank (md : Descriptor) (b : Bool) (l : List (Fin 16)) (m : Mapper) (q : Fin 16) :
    (l.foldl (fun m r => m.evalRegion md b r) m).bank[q] = if q ∈ l then m.bankUnder md b q else m.bank[q] := by
  induction l generalizing m with
  | nil => simp
  | cons r l ih =>
    rw [List.foldl_cons, ih, bankUnder_evalRegion, evalRegion_bank]
    by_cases hr : r = q
    · subst hr; simp
    · simp [hr, Ne.symm hr]

theorem Mapper.foldl_evalRegion_hwm (md : Descriptor) (b : Bool) (l : List (Fin 16)) (m : Mapper) :
    (l.foldl (fun m r => m.evalRegion md b r) m).hwm =
      if b then (l.map (m.bankUnder md b)).foldl max m.hwm else m.hwm := by
  induction l generalizing m with
  | nil => simp
  | cons r l ih =>
    have hb : (m.evalRegion md b r).bankUnder md b = m.bankUnder md b := funext (m.bankUnder_evalRegion md b r)
    rw [List.foldl_cons, ih, hb, evalRegion_hwm, List.map_cons, List.foldl_cons]
    cases b <;> rfl

/-! ## Writing the mapping-active bit (20_memory.md R134) -/

theorem Mapper.writeActive_reqw (m : Mapper) (md : Descriptor) (b : Bool) : (m.writeActive md b).reqw = m.reqw := by
  rw [writeActive_eq_foldl, foldl_evalRegion_reqw]

theorem Mapper.writeActive_active (m : Mapper) (md : Descriptor) (b : Bool) : (m.writeActive md b).active = b := by
  rw [writeActive_eq_foldl, foldl_evalRegion_active]

theorem Mapper.writeActive_bank (m : Mapper) (md : Descriptor) (b : Bool) (q : Fin 16) :
    (m.writeActive md b).bank[q] = if q ∈ md.swappable then m.bankUnder md b q else m.bank[q] := by
  rw [writeActive_eq_foldl, foldl_evalRegion_bank]; rfl

theorem Mapper.writeActive_hwm (m : Mapper) (md : Descriptor) (b : Bool) :
    (m.writeActive md b).hwm =
      if b then (md.swappable.map (m.bankUnder md b)).foldl max m.hwm else m.hwm := by
  rw [writeActive_eq_foldl, foldl_evalRegion_hwm]; rfl

/-- A deactivation and an activation after it leave each swappable region with the bank its page word asks for. -/
theorem Mapper.writeActive_false_true_bank (m : Mapper) (md : Descriptor) (q : Fin 16) :
    ((m.writeActive md false).writeActive md true).bank[q] =
      if q ∈ md.swappable then samsIndex md m.reqw[q] % md.banks else m.bank[q] := by
  rw [writeActive_bank]
  by_cases hq : q ∈ md.swappable
  · rw [if_pos hq, if_pos hq, bankUnder, if_pos rfl, writeActive_reqw]
  · rw [if_neg hq, if_neg hq, writeActive_bank, if_neg hq]

theorem cruWrite_activeBit {s : State} (h : pinOf s.md (s.md.samsCruBase + 1) = none) (b : Bool) :
    s.cruWrite (s.md.samsCruBase + 1) b = s.setMapper (s.mapper.writeActive s.md b) := by
  have hne : s.md.samsCruBase + 1 ≠ s.md.samsCruBase := by bv_omega
  simp only [State.cruWrite, h, if_neg hne, if_pos]

/-- Memory reads through the mapper's banks and page words alone. -/
theorem peek_setMapper {s : State} {m : Mapper} (hb : m.bank = s.mapper.bank) (hr : m.reqw = s.mapper.reqw) (a : Word) :
    (s.setMapper m).peek a = s.peek a := by
  have hbank : m.bankOf = s.mapper.bankOf := by unfold Mapper.bankOf; rw [hb]
  have hreq : m.reqOf = s.mapper.reqOf := by unfold Mapper.reqOf; rw [hr]
  have hhome : (s.setMapper m).home a = s.home a := by
    simp only [State.home, setMapper_mapper, hbank]; rfl
  have hbyte : (s.setMapper m).homeByte (s.home a) = s.homeByte (s.home a) := by
    cases s.home a with
    | page r low => simp only [State.homeByte, setMapper_mapper, hreq]
    | console _ | scratch _ | pool _ | cart _ | port _ => rfl
  rw [State.peek, hhome, hbyte, State.peek]

/-- Settles O18: the CRU write is `Mapper.writeActive`, whose loop gives each swappable region its bank once. -/
theorem mappingActiveBit : Obligations.MappingActiveBit := by
  intro s b hpin t
  have ht : t = s.setMapper (s.mapper.writeActive s.md b) := cruWrite_activeBit hpin b
  clear_value t
  subst ht
  refine ⟨⟨_, rfl⟩, s.mapper.writeActive_active s.md b, s.mapper.writeActive_visible s.md b,
    s.mapper.writeActive_reqw s.md b, fun r => s.mapper.writeActive_bank s.md b r, ?_⟩
  rw [setMapper_mapper, Mapper.writeActive_hwm]
  cases b <;> rfl

/-- Settles O19: the second write re-installs the banks the page words ask for, and memory reads through nothing else. -/
theorem mappingRoundTrip : Obligations.MappingRoundTrip := by
  intro s hpin _ hbanks t
  have ht : t = s.setMapper ((s.mapper.writeActive s.md false).writeActive s.md true) := by
    have h1 := cruWrite_activeBit hpin false
    have h2 := cruWrite_activeBit (s := s.setMapper (s.mapper.writeActive s.md false)) hpin true
    exact (congrArg (fun u : State => u.cruWrite (s.md.samsCruBase + 1) true) h1).trans h2
  clear_value t
  subst ht
  have hbank : ((s.mapper.writeActive s.md false).writeActive s.md true).bank = s.mapper.bank := by
    refine Vector.ext fun i hi => ?_
    have hq := s.mapper.writeActive_false_true_bank s.md ⟨i, hi⟩
    by_cases hs : ⟨i, hi⟩ ∈ s.md.swappable
    · rw [if_pos hs, ← hbanks _ hs] at hq
      exact hq
    · rw [if_neg hs] at hq
      exact hq
  refine ⟨hbank, Mapper.writeActive_active _ _ _, peek_setMapper hbank ?_⟩
  rw [Mapper.writeActive_reqw, Mapper.writeActive_reqw]

/-! ## Writing the visibility bit (20_memory.md R133) -/

theorem cruWrite_visibleBit {s : State} (h : pinOf s.md s.md.samsCruBase = none) (b : Bool) :
    s.cruWrite s.md.samsCruBase b = s.writeVisible b := by
  simp only [State.cruWrite, h, if_pos]

theorem granuleTag_setTag_both {s : State} (h : sparseWf (regionInit s.md) s.tags) (g₁ g₂ g : Nat) (t : RegionTag) :
    ((s.setTag g₁ t).setTag g₂ t).granuleTag g = if g = g₁ ∨ g = g₂ then t else s.granuleTag g := by
  rw [granuleTag_setTag (setTag_wf h g₁ t), granuleTag_setTag h]
  by_cases h₂ : g = g₂
  · rw [if_pos h₂, if_pos (.inr h₂)]
  · simp only [h₂, if_false, or_false]

/-- The register window is granules 0x400 and 0x401 (20_memory.md R113). -/
theorem granuleTag_writeVisible {s : State} (h : sparseWf (regionInit s.md) s.tags) (b : Bool) (g : Nat) :
    (s.writeVisible b).granuleTag g =
      if g = 0x400 ∨ g = 0x401 then (if b then .mapperRegs else .dsr) else s.granuleTag g :=
  granuleTag_setTag_both (s := s.setMapper { s.mapper with visible := b }) h 0x400 0x401 g _

/-- Settles O20: the write retags granules 0x400 and 0x401, the addresses from 0x4000 to 0x401F. -/
theorem visibilityBit : Obligations.VisibilityBit := by
  intro s b hinv hpin t
  have ht : t = s.writeVisible b := cruWrite_visibleBit hpin b
  clear_value t
  subst ht
  refine ⟨⟨_, rfl⟩, fun a => ?_⟩
  have hwindow : (a.toNat / 16 = 0x400 ∨ a.toNat / 16 = 0x401) ↔ (0x4000 ≤ a.toNat ∧ a.toNat ≤ 0x401F) := by omega
  rw [tagAt_eq, granuleTag_writeVisible hinv.tagsWf, tagAt_eq]
  simp only [hwindow]

end Sys2Proof.Machine
end

section
/-! PROOFS. The decoder against the encoder and the opcode table (30_encoding.md R170, R180, R186, R187): the encoder is a
right inverse of the decoder on well-formed instructions, and a left inverse up to the don't-care bits. -/

namespace Sys2Proof.Laws

open Sys2Proof.Claims

/-! ## A general address and its two fields (R180) -/

theorem decodeGA_wf (t : BitVec 2) (n : Reg) : (decodeGA t n).wf = true := by
  unfold decodeGA
  split
  case h_3 =>
    split
    · rfl
    · exact bne_iff_ne.mpr ‹_›
  all_goals rfl

theorem modeField_decodeGA (t : BitVec 2) (n : Reg) : (decodeGA t n).modeField = t := by
  unfold decodeGA
  split
  case h_3 => split <;> rfl
  all_goals rfl

theorem regField_decodeGA (t : BitVec 2) (n : Reg) : (decodeGA t n).regField = n := by
  unfold decodeGA
  split
  case h_3 =>
    split
    · exact Eq.symm ‹_›
    · rfl
  all_goals rfl

theorem decodeGA_of_wf {g : GA} (h : g.wf = true) : decodeGA g.modeField g.regField = g := by
  cases g with
  | idx n => exact if_neg (bne_iff_ne.mp h)
  | reg n | ind n | inc n | sym => rfl

/-! ## The fields that the decoder reads in each format's encoding (R172 to R179) -/

theorem encodeI_fields (op : BitVec 4) {src dst : GA} (hs : src.wf = true) (hd : dst.wf = true) :
    (encodeI op src dst).extractLsb' 12 4 = op ∧
    sourceGA (encodeI op src dst) = src ∧ destGA (encodeI op src dst) = dst := by
  simp (disch := decide) only [encodeI, sourceGA, destGA, BitVec.extractLsb'_append_eq_of_le,
    BitVec.extractLsb'_append_eq_of_add_le, Nat.reduceSub, BitVec.extractLsb'_eq_self, decodeGA_of_wf hs,
    decodeGA_of_wf hd, and_self]

theorem encodeII_fields (op : BitVec 8) (disp : Byte) :
    (encodeII op disp).extractLsb' 12 4 = op.extractLsb' 4 4 ∧
    (encodeII op disp).extractLsb' 8 4 = op.extractLsb' 0 4 ∧ fieldDisp (encodeII op disp) = disp := by
  simp (disch := decide) only [encodeII, fieldDisp, BitVec.extractLsb'_append_eq_of_le,
    BitVec.extractLsb'_append_eq_of_add_le, Nat.reduceSub, BitVec.extractLsb'_eq_self, and_self]

theorem encodeIII_fields (op : BitVec 6) {g : GA} (d : BitVec 4) (h : g.wf = true) :
    (encodeIII op g d).extractLsb' 12 4 = op.extractLsb' 2 4 ∧
    (encodeIII op g d).extractLsb' 10 2 = op.extractLsb' 0 2 ∧
    sourceGA (encodeIII op g d) = g ∧ fieldD (encodeIII op g d) = d := by
  simp (disch := decide) only [encodeIII, sourceGA, fieldD, BitVec.extractLsb'_append_eq_of_le,
    BitVec.extractLsb'_append_eq_of_add_le, Nat.reduceSub, BitVec.extractLsb'_eq_self, decodeGA_of_wf h, and_self]

theorem encodeV_fields (op : BitVec 8) (w : Reg) (c : BitVec 4) :
    (encodeV op w c).extractLsb' 12 4 = op.extractLsb' 4 4 ∧
    (encodeV op w c).extractLsb' 10 2 = op.extractLsb' 2 2 ∧
    (encodeV op w c).extractLsb' 8 2 = op.extractLsb' 0 2 ∧
    fieldW (encodeV op w c) = w ∧ fieldC (encodeV op w c) = c := by
  simp (disch := decide) only [encodeV, fieldW, fieldC, BitVec.extractLsb'_append_eq_of_le,
    BitVec.extractLsb'_append_eq_of_add_le, Nat.reduceSub, BitVec.extractLsb'_eq_self, and_self]

theorem encodeVI_fields (op : BitVec 10) {g : GA} (h : g.wf = true) :
    (encodeVI op g).extractLsb' 12 4 = op.extractLsb' 6 4 ∧
    (encodeVI op g).extractLsb' 10 2 = op.extractLsb' 4 2 ∧
    (encodeVI op g).extractLsb' 6 4 = op.extractLsb' 0 4 ∧ sourceGA (encodeVI op g) = g := by
  simp (disch := decide) only [encodeVI, sourceGA, BitVec.extractLsb'_append_eq_of_le,
    BitVec.extractLsb'_append_eq_of_add_le, Nat.reduceSub, BitVec.extractLsb'_eq_self, decodeGA_of_wf h, and_self]

theorem encodeVIII_fields (op : BitVec 11) (w : Reg) :
    (encodeVIII op w).extractLsb' 12 4 = op.extractLsb' 7 4 ∧
    (encodeVIII op w).extractLsb' 10 2 = op.extractLsb' 5 2 ∧
    (encodeVIII op w).extractLsb' 9 1 = op.extractLsb' 4 1 ∧
    (encodeVIII op w).extractLsb' 5 4 = op.extractLsb' 0 4 ∧ fieldW (encodeVIII op w) = w := by
  simp (disch := decide) only [encodeVIII, fieldW, BitVec.extractLsb'_append_eq_of_le,
    BitVec.extractLsb'_append_eq_of_add_le, Nat.reduceSub, BitVec.extractLsb'_eq_self, and_self]

/-! ## The encoder is a right inverse -/

theorem decodeWord_encodeWord {i : Instr} (h : i.wf = true) : decodeWord (encodeWord i) = i := by
  cases i with
  | szc src dst | szcb src dst | s src dst | sb src dst | c src dst | cb src dst
  | a src dst | ab src dst | mov src dst | movb src dst | soc src dst | socb src dst =>
    obtain ⟨hs, hd⟩ := Bool.and_eq_true_iff.mp h
    simp only [encodeWord, decodeWord, encodeI_fields _ hs hd] <;> rfl
  | jmp d | jlt d | jle d | jeq d | jhe d | jgt d | jne d | jnc d | joc d | jno d | jl d | jh d | jop d
  | sbo d | sbz d | tb d =>
    simp only [encodeWord, decodeWord, decodeJump, encodeII_fields]
    rfl
  | coc g d | czc g d | xor g d | xop g d =>
    simp only [encodeWord, decodeWord, decode2000, encodeIII_fields _ d h]
    rfl
  | ldcr g d | stcr g d | mpy g d | div g d =>
    simp only [encodeWord, decodeWord, decode3000, encodeIII_fields _ d h]
    rfl
  | sra w c | srl w c | sla w c | src w c =>
    simp only [encodeWord, decodeWord, decodeShort, encodeV_fields]
    rfl
  | blwp g | b g | x g | clr g | neg g | inv g | inc g | inct g | dec g | dect g | bl g | swpb g | seto g | abs g =>
    simp only [encodeWord, decodeWord, decodeShort, decodeSingle, encodeVI_fields _ h]
    rfl
  | li w | ai w | andi w | ori w | ci w | stwp w | stst w =>
    simp only [encodeWord, decodeWord, decodeShort, decodeLow, encodeVIII_fields]
    rfl
  | lwpi | limi | idle | rset | rtwp | ckon | ckof | lrex => decide
  | illegal0780 low => revert low; decide
  | illegal0000 low | illegal0320 low | illegal0C00 low =>
    simp (disch := decide) only [encodeWord, decodeWord, decodeShort, decodeLow,
      BitVec.extractLsb'_append_eq_of_le, BitVec.extractLsb'_append_eq_of_add_le, Nat.reduceSub,
      BitVec.extractLsb'_eq_self]
    rfl

/-! ## A word is put together again from its opcode and its fields -/

theorem append_extractLsb' {n s l m : Nat} {w : BitVec n} {hi : BitVec m} (h : w.extractLsb' (s + l) m = hi) :
    hi ++ w.extractLsb' s l = w.extractLsb' s (m + l) := by
  subst h
  exact BitVec.extractLsb'_append_extractLsb'_eq_extractLsb' rfl

theorem extractLsb'_of_parts {n s l m : Nat} {w : BitVec n} {hi : BitVec m} {lo : BitVec l}
    (hhi : w.extractLsb' (s + l) m = hi) (hlo : w.extractLsb' s l = lo) : w.extractLsb' s (m + l) = hi ++ lo := by
  rw [← hlo, append_extractLsb' hhi]

theorem extractLsb'_high {n : Nat} (w : BitVec n) (s l m : Nat) :
    w.extractLsb' (s + l) m = (w.extractLsb' s (m + l)).extractLsb' l m := by
  rw [← append_extractLsb' rfl, BitVec.extractLsb'_append_eq_of_le (Nat.le_refl l), Nat.sub_self,
    BitVec.extractLsb'_eq_self]

theorem append_operand {m l : Nat} {w : BitVec (m + l)} {op : BitVec m} (h : w.extractLsb' l m = op) :
    op ++ w.extractLsb' 0 l = w := by
  rw [append_extractLsb' (by rwa [Nat.zero_add]), BitVec.extractLsb'_eq_self]

theorem encodeI_of_opcode {w : Word} {op : BitVec 4} (h : w.extractLsb' 12 4 = op) :
    encodeI op (sourceGA w) (destGA w) = w := by
  rw [encodeI, sourceGA, destGA, modeField_decodeGA, regField_decodeGA, modeField_decodeGA, regField_decodeGA]
  exact append_operand (append_extractLsb' (append_extractLsb' (append_extractLsb' h).symm).symm).symm

theorem encodeII_of_opcode {w : Word} {op : BitVec 8} (h : w.extractLsb' 8 8 = op) : encodeII op (fieldDisp w) = w :=
  append_operand h

theorem encodeIII_of_opcode {w : Word} {op : BitVec 6} (h : w.extractLsb' 10 6 = op) :
    encodeIII op (sourceGA w) (fieldD w) = w := by
  rw [encodeIII, sourceGA, modeField_decodeGA, regField_decodeGA]
  exact append_operand (append_extractLsb' (append_extractLsb' h).symm).symm

theorem encodeV_of_opcode {w : Word} {op : BitVec 8} (h : w.extractLsb' 8 8 = op) :
    encodeV op (fieldW w) (fieldC w) = w :=
  append_operand (append_extractLsb' h).symm

theorem encodeVI_of_opcode {w : Word} {op : BitVec 10} (h : w.extractLsb' 6 10 = op) : encodeVI op (sourceGA w) = w := by
  rw [encodeVI, sourceGA, modeField_decodeGA, regField_decodeGA]
  exact append_operand (append_extractLsb' h).symm

/-- The bit between opcode and W is the don't-care bit of format VIII. -/
theorem opcode_bit_reg {w : Word} {op : BitVec 11} (h : w.extractLsb' 5 11 = op) :
    op ++ w.extractLsb' 4 1 ++ w.extractLsb' 0 4 = w :=
  append_operand (append_extractLsb' h).symm

theorem encodeVIII_of_opcode {w : Word} {op : BitVec 11} (h : w.extractLsb' 5 11 = op) :
    encodeVIII op (fieldW w) = w &&& 0xFFEF :=
  calc encodeVIII op (fieldW w)
      = (op ++ w.extractLsb' 4 1 ++ w.extractLsb' 0 4) &&& (BitVec.allOnes 11 ++ 0#1 ++ BitVec.allOnes 4) := by
        rw [BitVec.and_append, BitVec.and_append, BitVec.and_allOnes, BitVec.and_allOnes, BitVec.and_zero]
        rfl
    _ = w &&& 0xFFEF := congrArg₂ (· &&& ·) (opcode_bit_reg h) (by decide)

theorem encodeVII_of_opcode {w : Word} {op : BitVec 11} (h : w.extractLsb' 5 11 = op) :
    encodeVIII op 0#4 = w &&& 0xFFE0 :=
  calc encodeVIII op 0#4
      = (op ++ w.extractLsb' 4 1 ++ w.extractLsb' 0 4) &&& (BitVec.allOnes 11 ++ 0#1 ++ 0#4) := by
        rw [BitVec.and_append, BitVec.and_append, BitVec.and_allOnes, BitVec.and_zero, BitVec.and_zero]
        rfl
    _ = w &&& 0xFFE0 := congrArg₂ (· &&& ·) (opcode_bit_reg h) (by decide)

/-! ## The encoder is a left inverse up to the don't-care bits -/

/-- `i` is a well-formed instruction that encodes to `w` with the bits cleared that R187 lets the decoder ignore. -/
def EncodesTo (i : Instr) (w : Word) : Prop := i.wf = true ∧ encodeWord i = w &&& caredBits i

theorem EncodesTo.of_eq {i : Instr} {w : Word} (hwf : i.wf = true) (hc : caredBits i = 0xFFFF) (h : encodeWord i = w) :
    EncodesTo i w :=
  ⟨hwf, by rw [hc, h]; exact BitVec.and_allOnes.symm⟩

theorem sourceGA_wf (w : Word) : (sourceGA w).wf = true := decodeGA_wf _ _

theorem destGA_wf (w : Word) : (destGA w).wf = true := decodeGA_wf _ _

/-- The last arm of the decoder's matches on four bits. -/
theorem eq_fifteen_of_ne {x : BitVec 4} (h0 : x = 0#4 → False) (h1 : x = 1#4 → False) (h2 : x = 2#4 → False)
    (h3 : x = 3#4 → False) (h4 : x = 4#4 → False) (h5 : x = 5#4 → False) (h6 : x = 6#4 → False) (h7 : x = 7#4 → False)
    (h8 : x = 8#4 → False) (h9 : x = 9#4 → False) (h10 : x = 10#4 → False) (h11 : x = 11#4 → False)
    (h12 : x = 12#4 → False) (h13 : x = 13#4 → False) (h14 : x = 14#4 → False) : x = 15#4 := by
  revert x
  decide

theorem decodeLow_encodesTo {w : Word} (h : w.extractLsb' 10 6 = 0x00#6) : EncodesTo (decodeLow w) w := by
  unfold decodeLow
  split
  case isTrue h9 =>
    exact .of_eq rfl rfl (append_operand (extractLsb'_of_parts (l := 1) h h9))
  case isFalse h9 =>
    have hop : w.extractLsb' 9 7 = 0x01#7 := extractLsb'_of_parts h ((BitVec.eq_zero_or_eq_one _).resolve_left h9)
    split
    case h_1 h5 | h_2 h5 | h_3 h5 | h_4 h5 | h_5 h5 | h_6 h5 | h_7 h5 =>
      exact ⟨rfl, encodeVIII_of_opcode (extractLsb'_of_parts hop h5)⟩
    case h_10 h5 => exact .of_eq rfl rfl (append_operand (extractLsb'_of_parts hop h5))
    case h_16 =>
      exact ⟨rfl, encodeVII_of_opcode (extractLsb'_of_parts hop (by apply eq_fifteen_of_ne <;> assumption))⟩
    all_goals
      next h5 => exact ⟨rfl, encodeVII_of_opcode (extractLsb'_of_parts hop h5)⟩

/-- The ILLEGAL range 0x0780 to 0x07FF is decoded by one bit more than its row has (R186). -/
theorem illegal0780_opcode {w : Word} {x : BitVec 4} (h : w.extractLsb' 10 6 = 0x01#6) (h6 : w.extractLsb' 6 4 = x)
    (hx : x.extractLsb' 1 3 = 0x7#3) : w.extractLsb' 7 9 = 0x0F#9 := by
  have h7 : w.extractLsb' 7 3 = 0x7#3 := by rw [extractLsb'_high w 6 1 3, h6, hx]
  exact extractLsb'_of_parts h h7

theorem decodeSingle_encodesTo {w : Word} (h : w.extractLsb' 10 6 = 0x01#6) : EncodesTo (decodeSingle w) w := by
  unfold decodeSingle
  split
  case h_15 h6 => exact .of_eq rfl rfl (append_operand (illegal0780_opcode h h6 rfl))
  case h_16 =>
    exact .of_eq rfl rfl (append_operand (illegal0780_opcode h (by apply eq_fifteen_of_ne <;> assumption) rfl))
  all_goals
    next h6 => exact .of_eq (sourceGA_wf w) rfl (encodeVI_of_opcode (extractLsb'_of_parts h h6))

theorem decodeShort_encodesTo {w : Word} (h : w.extractLsb' 12 4 = 0x0#4) : EncodesTo (decodeShort w) w := by
  unfold decodeShort
  split
  case h_1 h10 => exact decodeLow_encodesTo (extractLsb'_of_parts h h10)
  case h_2 h10 => exact decodeSingle_encodesTo (extractLsb'_of_parts h h10)
  case h_3 h10 =>
    have hop : w.extractLsb' 10 6 = 0x02#6 := extractLsb'_of_parts h h10
    split
    all_goals
      next h8 => exact .of_eq rfl rfl (encodeV_of_opcode (extractLsb'_of_parts hop h8))
  case h_4 h10 => exact .of_eq rfl rfl (append_operand (extractLsb'_of_parts h h10))

theorem decodeJump_encodesTo {w : Word} (h : w.extractLsb' 12 4 = 0x1#4) : EncodesTo (decodeJump w) w := by
  unfold decodeJump
  split
  case h_16 =>
    exact .of_eq rfl rfl (encodeII_of_opcode (extractLsb'_of_parts h (by apply eq_fifteen_of_ne <;> assumption)))
  all_goals
    next h8 => exact .of_eq rfl rfl (encodeII_of_opcode (extractLsb'_of_parts h h8))

theorem decode2000_encodesTo {w : Word} (h : w.extractLsb' 12 4 = 0x2#4) : EncodesTo (decode2000 w) w := by
  unfold decode2000
  split
  all_goals
    next h10 => exact .of_eq (sourceGA_wf w) rfl (encodeIII_of_opcode (extractLsb'_of_parts h h10))

theorem decode3000_encodesTo {w : Word} (h : w.extractLsb' 12 4 = 0x3#4) : EncodesTo (decode3000 w) w := by
  unfold decode3000
  split
  all_goals
    next h10 => exact .of_eq (sourceGA_wf w) rfl (encodeIII_of_opcode (extractLsb'_of_parts h h10))

theorem decodeWord_encodesTo (w : Word) : EncodesTo (decodeWord w) w := by
  have hwf : ((sourceGA w).wf && (destGA w).wf) = true := Bool.and_eq_true_iff.mpr ⟨sourceGA_wf w, destGA_wf w⟩
  unfold decodeWord
  split
  case h_1 h => exact decodeShort_encodesTo h
  case h_2 h => exact decodeJump_encodesTo h
  case h_3 h => exact decode2000_encodesTo h
  case h_4 h => exact decode3000_encodesTo h
  case h_16 => exact .of_eq hwf rfl (encodeI_of_opcode (by apply eq_fifteen_of_ne <;> assumption))
  all_goals
    next h => exact .of_eq hwf rfl (encodeI_of_opcode h)

/-! ## The rows of the opcode table -/

/-- The 73 rows of the opcode map of R186, in the order formats I, II, III with IV and IX, V, VI, VIII with VII and the
ILLEGAL row between them, and the other three ILLEGAL rows. -/
def rowTable : List (Word × Word) :=
  (List.range 12).map (fun k => (0x4000 + 0x1000 * BitVec.ofNat 16 k, 0xF000)) ++
  (List.range 16).map (fun k => (0x1000 + 0x0100 * BitVec.ofNat 16 k, 0xFF00)) ++
  (List.range 8).map (fun k => (0x2000 + 0x0400 * BitVec.ofNat 16 k, 0xFC00)) ++
  (List.range 4).map (fun k => (0x0800 + 0x0100 * BitVec.ofNat 16 k, 0xFF00)) ++
  (List.range 14).map (fun k => (0x0400 + 0x0040 * BitVec.ofNat 16 k, 0xFFC0)) ++
  (List.range 16).map (fun k => (0x0200 + 0x0020 * BitVec.ofNat 16 k, 0xFFE0)) ++
  [(0x0000, 0xFE00), (0x0780, 0xFF80), (0x0C00, 0xFC00)]

theorem row_mem_rowTable (i : Instr) : i.row ∈ rowTable := by
  cases i <;> exact of_decide_eq_true rfl

/-- Wherever both masks look, two rows of the table differ in some bit. -/
theorem rowTable_pairwise : rowTable.Pairwise fun r q => r.1 &&& q.2 ≠ q.1 &&& r.2 := by decide

theorem row_unique {w : Word} {r q : Word × Word} (hr : r ∈ rowTable) (hq : q ∈ rowTable) (hwr : w &&& r.2 = r.1)
    (hwq : w &&& q.2 = q.1) : r = q := by
  by_contra hne
  have hsymm : Std.Symm fun r q : Word × Word => r.1 &&& q.2 ≠ q.1 &&& r.2 := ⟨fun _ _ h => h.symm⟩
  apply rowTable_pairwise.forall hr hq hne
  rw [← hwr, ← hwq, BitVec.and_assoc, BitVec.and_assoc, BitVec.and_comm r.2]

theorem encodeWord_and_mask (i : Instr) : encodeWord i &&& i.row.2 = i.row.1 := by
  cases i with
  | szc src dst | szcb src dst | s src dst | sb src dst | c src dst | cb src dst
  | a src dst | ab src dst | mov src dst | movb src dst | soc src dst | socb src dst => exact encodeI_row _ src dst
  | jmp d | jlt d | jle d | jeq d | jhe d | jgt d | jne d | jnc d | joc d | jno d | jl d | jh d | jop d
  | sbo d | sbz d | tb d => exact encodeII_row _ d
  | coc g d | czc g d | xor g d | xop g d | ldcr g d | stcr g d | mpy g d | div g d => exact encodeIII_row _ g d
  | sra w c | srl w c | sla w c | src w c => exact encodeV_row _ w c
  | blwp g | b g | x g | clr g | neg g | inv g | inc g | inct g | dec g | dect g | bl g | swpb g | seto g | abs g =>
    exact encodeVI_row _ g
  | li w | ai w | andi w | ori w | ci w | stwp w | stst w => exact encodeVIII_row _ w
  | lwpi | limi | idle | rset | rtwp | ckon | ckof | lrex => exact encodeVIII_row _ 0#4
  | illegal0000 low | illegal0320 low | illegal0780 low | illegal0C00 low => exact illegal_row _ low

/-- The cared bits of every instruction of a row: of the rows that look at bits 15 to 5 only, those of LI to STST leave bit
4 out, LWPI, LIMI and format VII bits 4 to 0, and the ILLEGAL row nothing (R187). -/
def rowCaredBits (r : Word × Word) : Word :=
  if r.2 = 0xFFE0 ∧ r.1 ≠ 0x0320 then (if r.1 < 0x02E0 then 0xFFEF else 0xFFE0) else 0xFFFF

theorem caredBits_eq_rowCaredBits (i : Instr) : caredBits i = rowCaredBits i.row := by
  cases i <;> rfl

theorem rowCaredBits_and_mask (r : Word × Word) : rowCaredBits r &&& r.2 = r.2 := by
  unfold rowCaredBits
  split
  next h =>
    obtain ⟨hmask, -⟩ := h
    rw [hmask]
    split <;> decide
  next => exact BitVec.allOnes_and

/-- A row looks at cared bits only. -/
theorem caredBits_and_mask (i : Instr) : caredBits i &&& i.row.2 = i.row.2 := by
  rw [caredBits_eq_rowCaredBits, rowCaredBits_and_mask]

theorem decodeWord_wf (w : Word) : (decodeWord w).wf = true := (decodeWord_encodesTo w).1

theorem encodeWord_decodeWord (w : Word) : encodeWord (decodeWord w) = w &&& caredBits (decodeWord w) :=
  (decodeWord_encodesTo w).2

theorem and_mask_decodeWord (w : Word) : w &&& (decodeWord w).row.2 = (decodeWord w).row.1 := by
  rw [← encodeWord_and_mask, encodeWord_decodeWord, BitVec.and_assoc, caredBits_and_mask]

theorem row_eq_decodeWord_row {w : Word} {i : Instr} (h : w &&& i.row.2 = i.row.1) : i.row = (decodeWord w).row :=
  row_unique (row_mem_rowTable i) (row_mem_rowTable _) h (and_mask_decodeWord w)

/-- Settles O2: the rows are pairwise disjoint, and a word lies in the row of what it decodes to because the encoding of
that does. -/
theorem oneRowPerWord : Obligations.OneRowPerWord :=
  fun w => ⟨decodeWord_wf w, and_mask_decodeWord w, fun _ h => row_eq_decodeWord_row h⟩

/-! ## What the decoder ignores (R187) -/

theorem and_mask_of_agree {v w : Word} {i : Instr} (h : v &&& caredBits i = w &&& caredBits i) :
    v &&& i.row.2 = w &&& i.row.2 := by
  rw [← caredBits_and_mask, ← BitVec.and_assoc, h, BitVec.and_assoc]

theorem row_decodeWord_of_agree {v w : Word}
    (h : v &&& caredBits (decodeWord w) = w &&& caredBits (decodeWord w)) : (decodeWord v).row = (decodeWord w).row :=
  (row_eq_decodeWord_row ((and_mask_of_agree h).trans (and_mask_decodeWord w))).symm

theorem decodeWord_of_agree {v w : Word} (h : v &&& caredBits (decodeWord w) = w &&& caredBits (decodeWord w)) :
    decodeWord v = decodeWord w := by
  have hcared : caredBits (decodeWord v) = caredBits (decodeWord w) := by
    rw [caredBits_eq_rowCaredBits, row_decodeWord_of_agree h, ← caredBits_eq_rowCaredBits]
  have henc : encodeWord (decodeWord v) = encodeWord (decodeWord w) := by
    rw [encodeWord_decodeWord, encodeWord_decodeWord, hcared, h]
  rw [← decodeWord_encodeWord (decodeWord_wf v), henc, decodeWord_encodeWord (decodeWord_wf w)]

theorem agree_of_decodeWord_eq {v w : Word} (h : decodeWord v = decodeWord w) :
    v &&& caredBits (decodeWord w) = w &&& caredBits (decodeWord w) := by
  rw [← encodeWord_decodeWord w, ← h, encodeWord_decodeWord v]

/-- Settles O3: words that agree on the cared bits lie in one row and have one encoding, so they decode alike. -/
theorem dontCareBits : Obligations.DontCareBits :=
  fun w => ⟨encodeWord_decodeWord w, fun _ => ⟨agree_of_decodeWord_eq, decodeWord_of_agree⟩⟩

end Sys2Proof.Laws
end

section
/-! PROOFS. Format I, two general addresses (41_dual_operand.md R230 to R242): the flag rules write ST bit by bit, in the order
of their lists, and each execution frame is its two operands and at most one write. -/

namespace Sys2Proof.Claims

open Sys2Proof.Machine

/-! ## The flag lists in the model's own terms (40_operands.md R205 to R209) -/

theorem laeBits_eq {w : Nat} (v : BitVec w) :
    laeBits v = [(15, v != 0#w), (14, !v.msb && v != 0#w), (13, v == 0#w)] := by
  simp [laeBits, BitVec.msb_eq_getLsbD_last, bne, beq_eq_decide]

theorem addBits_eq {w : Nat} (d s : BitVec w) :
    addBits d s =
      [(12, decide (2 ^ w ≤ d.toNat + s.toNat)), (11, d.msb == s.msb && (d + s).msb != d.msb)] ++ laeBits (d + s) := by
  simp [addBits, BitVec.msb_eq_getLsbD_last, bne, beq_eq_decide]

theorem subBits_eq {w : Nat} (d s : BitVec w) :
    subBits d s =
      [(12, decide (s.toNat ≤ d.toNat)), (11, d.msb != s.msb && (d - s).msb != d.msb)] ++ laeBits (d - s) := by
  simp [subBits, BitVec.msb_eq_getLsbD_last, bne, beq_eq_decide]

theorem cmpBits_eq {w : Nat} (s d : BitVec w) :
    cmpBits s d = [(15, decide (d.toNat < s.toNat)), (14, decide (d.toInt < s.toInt)), (13, s == d)] := by
  simp [cmpBits, beq_eq_decide]

/-- An odd number of members satisfy `p` when the exclusive or of `p` over all members is true. -/
theorem odd_length_filter {α : Type} (p : α → Bool) (l : List α) :
    decide ((l.filter p).length % 2 = 1) = l.foldr (fun a odd => p a ^^ odd) false := by
  induction l with
  | nil => rfl
  | cons a l ih =>
    rw [List.foldr_cons, ← ih]
    cases hp : p a with
    | false => simp [hp]
    | true => simp [hp, Nat.succ_mod_two_eq_one_iff, ← decide_not]

theorem parityBits_eq (b : Byte) : parityBits b = [(10, parity b)] := by
  rw [parityBits, odd_length_filter]
  simp [parity, List.range_succ]

/-! ## ST written bit by bit (10_state.md R54) -/

theorem StIs.refl (st : Word) : StIs st st [] := fun _ _ => rfl

/-- Every flag rule sets its bits one after another, so its list grows at the end. -/
theorem StIs.snoc_setBit {old mid : Word} {l : List (Nat × Bool)} (h : StIs old mid l) {i : Nat} (hi : l.lookup i = none)
    (b : Bool) : StIs old (setBit mid i b) (l ++ [(i, b)]) := by
  intro j hj
  rw [setBit_getLsbD, List.lookup_append]
  by_cases hji : j = i
  · subst hji; simp [hj, hi]
  · have hne : (j == i) = false := beq_false_of_ne hji
    simp [hji, List.lookup, hne, h j hj]

theorem StIs.snoc_compare {old mid : Word} {l : List (Nat × Bool)} (h : StIs old mid l) (h15 : l.lookup 15 = none)
    (h14 : l.lookup 14 = none) (h13 : l.lookup 13 = none) (lgt agt eq : Bool) :
    StIs old (setCompare mid lgt agt eq) (l ++ [(15, lgt), (14, agt), (13, eq)]) := by
  have h14' : (l ++ [(15, lgt)]).lookup 14 = none := by rw [List.lookup_append, h14]; rfl
  have h13' : (l ++ [(15, lgt)] ++ [(14, agt)]).lookup 13 = none := by
    rw [List.lookup_append, List.lookup_append, h13]; rfl
  have hset := ((h.snoc_setBit h15 lgt).snoc_setBit h14' agt).snoc_setBit h13' eq
  rw [List.append_assoc, List.append_assoc] at hset
  exact hset

theorem StIs.snoc_opFlag {old mid : Word} {l : List (Nat × Bool)} (h : StIs old mid l) (h10 : l.lookup 10 = none)
    (b : Byte) : StIs old (opFlag b mid) (l ++ parityBits b) := by
  rw [parityBits_eq]
  exact h.snoc_setBit h10 _

theorem stIs_lae {w : Nat} (v : BitVec w) (st : Word) : StIs st (lae v st) (laeBits v) := by
  rw [laeBits_eq]
  exact (StIs.refl st).snoc_compare rfl rfl rfl _ _ _

theorem stIs_cmpFlags {w : Nat} (s d : BitVec w) (st : Word) : StIs st (cmpFlags s d st) (cmpBits s d) := by
  rw [cmpBits_eq]
  exact (StIs.refl st).snoc_compare rfl rfl rfl _ _ _

/-- Carry and overflow, then the comparison of the result with zero: the order of ADD and of SUB. -/
theorem stIs_carry_overflow_lae {w : Nat} (c o : Bool) (r : BitVec w) (st : Word) :
    StIs st (lae r (setBit (setBit st bitC c) bitOv o)) ([(12, c), (11, o)] ++ laeBits r) := by
  rw [laeBits_eq]
  exact (((StIs.refl st).snoc_setBit rfl c).snoc_setBit rfl o).snoc_compare rfl rfl rfl _ _ _

theorem stIs_addFlags {w : Nat} (d s : BitVec w) (st : Word) : StIs st (addFlags d s st) (addBits d s) := by
  rw [addBits_eq]
  exact stIs_carry_overflow_lae _ _ _ st

theorem stIs_subFlags {w : Nat} (d s : BitVec w) (st : Word) : StIs st (subFlags d s st) (subBits d s) := by
  rw [subBits_eq]
  exact stIs_carry_overflow_lae _ _ _ st

/-! ## Operands, and the base cost paid at the end (40_operands.md R203, R211) -/

@[simp] theorem wordOperand_st (s : State) (g : GA) : (wordOperand s g).2.2.st = s.st := by simp [wordOperand]

@[simp] theorem wordOperand_md (s : State) (g : GA) : (wordOperand s g).2.2.md = s.md := by simp [wordOperand]

@[simp] theorem byteOperand_st (s : State) (g : GA) : (byteOperand s g).2.2.st = s.st := by simp [byteOperand]

@[simp] theorem byteOperand_md (s : State) (g : GA) : (byteOperand s g).2.2.md = s.md := by simp [byteOperand]

/-- Bus accesses keep the machine descriptor, so an instruction pays what its starting state says. -/
theorem pay_eq_addCycles {s t : State} (h : t.md = s.md) (i : Instr) (o : CostOutcome) :
    t.pay i o = t.addCycles (cost s i o) := by rw [State.pay, cost, h]

/-! ## The execution frames, in the operands of the statements (41_dual_operand.md R230) -/

theorem dualModifyWord_eq (s : State) (gs gd : GA) (f : (d v st : Word) → Word × Word) :
    let src := wordOperand s gs
    let dst := wordOperand src.2.2 gd
    let r := f dst.2.1 src.2.1 s.st
    s.dualModifyWord gs gd f = (dst.2.2.setSt r.2).writeWord dst.1 r.1 := by
  intro src dst r
  have hst : dst.2.2.st = s.st := by simp [dst, src]
  simp only [r, ← hst]
  rfl

theorem dualModifyByte_eq (s : State) (gs gd : GA) (f : (d v : Byte) → (st : Word) → Byte × Word) :
    let src := byteOperand s gs
    let dst := byteOperand src.2.2 gd
    let r := f dst.2.1 src.2.1 s.st
    s.dualModifyByte gs gd f = (dst.2.2.setSt r.2).writeByte dst.1 r.1 := by
  intro src dst r
  have hst : dst.2.2.st = s.st := by simp [dst, src]
  simp only [r, ← hst]
  rfl

theorem dualCompareWord_eq (s : State) (gs gd : GA) (f : (v d st : Word) → Word) :
    let src := wordOperand s gs
    let dst := wordOperand src.2.2 gd
    s.dualCompareWord gs gd f = dst.2.2.setSt (f src.2.1 dst.2.1 s.st) := by
  intro src dst
  have hst : dst.2.2.st = s.st := by simp [dst, src]
  rw [← hst]
  rfl

theorem dualCompareByte_eq (s : State) (gs gd : GA) (f : (v d : Byte) → (st : Word) → Word) :
    let src := byteOperand s gs
    let dst := byteOperand src.2.2 gd
    s.dualCompareByte gs gd f = dst.2.2.setSt (f src.2.1 dst.2.1 s.st) := by
  intro src dst
  have hst : dst.2.2.st = s.st := by simp [dst, src]
  rw [← hst]
  rfl

theorem dualMoveWord_eq (s : State) (gs gd : GA) (f : (v st : Word) → Word) :
    let src := wordOperand s gs
    let da := src.2.2.ea gd .word
    s.dualMoveWord gs gd f = (da.2.setSt (f src.2.1 s.st)).writeWord da.1 src.2.1 := by
  intro src da
  have hst : da.2.st = s.st := by simp [da, src]
  rw [← hst]
  rfl

theorem dualMoveByte_eq (s : State) (gs gd : GA) (f : (v : Byte) → (st : Word) → Word) :
    let src := byteOperand s gs
    let da := src.2.2.ea gd .byte
    s.dualMoveByte gs gd f = (da.2.setSt (f src.2.1 s.st)).writeByte da.1 src.2.1 := by
  intro src da
  have hst : da.2.st = s.st := by simp [da, src]
  rw [← hst]
  rfl

/-! ## A, S, SOC, SZC and their byte forms -/

theorem dualWord_of_exec {i : Instr} {gs gd : GA} {f : (d v : Word) → Word} {flags : (d v st : Word) → Word}
    {bits : (d v : Word) → List (Nat × Bool)}
    (hexec : ∀ s, exec i s = .next ((s.dualModifyWord gs gd fun d v st => (f d v, flags d v st)).pay i .plain))
    (hflags : ∀ d v st, StIs st (flags d v st) (bits d v)) : DualWord i gs gd f bits := by
  intro s src dst
  refine ⟨flags dst.2.1 src.2.1 s.st, hflags _ _ _, ?_⟩
  rw [hexec, dualModifyWord_eq, pay_eq_addCycles (s := s) (by simp)]

theorem dualByte_of_exec {i : Instr} {gs gd : GA} {f : (d v : Byte) → Byte} {flags : (d v : Byte) → (st : Word) → Word}
    {bits : (d v : Byte) → List (Nat × Bool)}
    (hexec : ∀ s, exec i s = .next ((s.dualModifyByte gs gd fun d v st => (f d v, flags d v st)).pay i .plain))
    (hflags : ∀ d v st, StIs st (flags d v st) (bits d v)) : DualByte i gs gd f bits := by
  intro s src dst
  refine ⟨flags dst.2.1 src.2.1 s.st, hflags _ _ _, ?_⟩
  rw [hexec, dualModifyByte_eq, pay_eq_addCycles (s := s) (by simp)]

/-- Settles O36: each of the four is the word frame with its own result and flag rule. -/
theorem wordArithmeticLogic : Obligations.WordArithmeticLogic := by
  intro gs gd
  refine ⟨?a, ?s, ?soc, ?szc⟩
  case a => exact dualWord_of_exec (fun _ => rfl) stIs_addFlags
  case s => exact dualWord_of_exec (fun _ => rfl) stIs_subFlags
  case soc => exact dualWord_of_exec (fun _ => rfl) fun _ _ => stIs_lae _
  case szc => exact dualWord_of_exec (fun _ => rfl) fun _ _ => stIs_lae _

/-- Settles O37: the byte frame, with the parity of the result after the flags of the word form. -/
theorem byteArithmeticLogic : Obligations.ByteArithmeticLogic := by
  intro gs gd
  refine ⟨?ab, ?sb, ?socb, ?szcb⟩
  case ab => exact dualByte_of_exec (fun _ => rfl) fun d v st => (stIs_addFlags d v st).snoc_opFlag rfl _
  case sb => exact dualByte_of_exec (fun _ => rfl) fun d v st => (stIs_subFlags d v st).snoc_opFlag rfl _
  case socb => exact dualByte_of_exec (fun _ => rfl) fun d v st => (stIs_lae (d ||| v) st).snoc_opFlag rfl _
  case szcb => exact dualByte_of_exec (fun _ => rfl) fun d v st => (stIs_lae (d &&& ~~~v) st).snoc_opFlag rfl _

/-! ## C and CB -/

theorem exec_c (gs gd : GA) (s : State) :
    exec (.c gs gd) s = .next ((s.dualCompareWord gs gd cmpFlags).pay (.c gs gd) .plain) := rfl

theorem exec_cb (gs gd : GA) (s : State) :
    exec (.cb gs gd) s =
      .next ((s.dualCompareByte gs gd fun v d st => opFlag v (cmpFlags v d st)).pay (.cb gs gd) .plain) := rfl

/-- Settles O38: the comparing frames write ST and nothing else. -/
theorem compares : Obligations.Compares := by
  intro gs gd s
  constructor
  · intro src dst
    refine ⟨cmpFlags src.2.1 dst.2.1 s.st, stIs_cmpFlags _ _ _, ?_⟩
    rw [exec_c, dualCompareWord_eq, pay_eq_addCycles (s := s) (by simp)]
  · intro src dst
    refine ⟨opFlag src.2.1 (cmpFlags src.2.1 dst.2.1 s.st), (stIs_cmpFlags _ _ _).snoc_opFlag rfl _, ?_⟩
    rw [exec_cb, dualCompareByte_eq, pay_eq_addCycles (s := s) (by simp)]

/-! ## MOV and MOVB -/

theorem exec_mov (gs gd : GA) (s : State) :
    exec (.mov gs gd) s = .next ((s.dualMoveWord gs gd lae).pay (.mov gs gd) .plain) := rfl

theorem exec_movb (gs gd : GA) (s : State) :
    exec (.movb gs gd) s = .next ((s.dualMoveByte gs gd fun v st => opFlag v (lae v st)).pay (.movb gs gd) .plain) := rfl

/-- Settles O39: the moving frames resolve the destination and write it without a read. -/
theorem moves : Obligations.Moves := by
  intro gs gd s
  constructor
  · intro src da
    refine ⟨lae src.2.1 s.st, stIs_lae _ _, ?_⟩
    rw [exec_mov, dualMoveWord_eq, pay_eq_addCycles (s := s) (by simp)]
  · intro src da
    refine ⟨opFlag src.2.1 (lae src.2.1 s.st), (stIs_lae _ _).snoc_opFlag rfl _, ?_⟩
    rw [exec_movb, dualMoveByte_eq, pay_eq_addCycles (s := s) (by simp)]

end Sys2Proof.Claims
end

section
/-! PROOFS. Formats III and IX, a general source and a register (42_format3_9.md R260 to R265): register addresses are those of
the starting workspace, which no operand access moves, and MPY and DIV work on 32-bit numbers held in two words. -/

namespace Sys2Proof.Claims

open Sys2Proof.Machine

/-! ## Registers and context switches in the addresses of the statements (00_scope.md R13, 60_exceptions.md R410) -/

@[simp] theorem wordOperand_wp (s : State) (g : GA) : (wordOperand s g).2.2.wp = s.wp := by simp [wordOperand]

theorem ra_eq_regAddr {s t : State} (h : t.wp = s.wp) (i : Nat) : t.ra i = regAddr s i := by
  rw [State.ra, regAddr, h, BitVec.ofNat_add, BitVec.ofNat_toNat, BitVec.setWidth_eq]

theorem readReg_eq_readWord {s t : State} (h : t.wp = s.wp) (i : Nat) : t.readReg i = t.readWord (regAddr s i) := by
  rw [State.readReg, ra_eq_regAddr h]

theorem writeReg_eq_writeWord {s t : State} (h : t.wp = s.wp) (i : Nat) (v : Word) :
    t.writeReg i v = t.writeWord (regAddr s i) v := by
  rw [State.writeReg, ra_eq_regAddr h]

theorem writeReg_of_wp {t : State} {wp : Word} (h : t.wp = wp) (i : Nat) (v : Word) :
    t.writeReg i v = t.writeWord (wp + BitVec.ofNat 16 (2 * i)) v := by
  rw [State.writeReg, State.ra, h]

@[simp] theorem saveContext_md (s : State) (wp owp opc ost : Word) : (saveContext s wp owp opc ost).md = s.md := by
  simp [saveContext]

@[simp] theorem saveContext_wp (s : State) (wp owp opc ost : Word) : (saveContext s wp owp opc ost).wp = s.wp := by
  simp [saveContext]

@[simp] theorem saveContext_st (s : State) (wp owp opc ost : Word) : (saveContext s wp owp opc ost).st = s.st := by
  simp [saveContext]

/-- The saves go to R13, R14 and R15 of the new workspace. -/
theorem contextSwitch_eq (s : State) (nwp npc : Word) :
    s.contextSwitch nwp npc = (saveContext (s.setWp nwp) (evenAddr nwp) s.wp s.pc s.st).setPc npc := by
  rw [State.contextSwitch, writeReg_of_wp (wp := evenAddr nwp) (i := 13) (by simp),
    writeReg_of_wp (wp := evenAddr nwp) (i := 14) (by simp), writeReg_of_wp (wp := evenAddr nwp) (i := 15) (by simp)]
  rfl

/-! ## COC, CZC and XOR -/

theorem stIs_setBit (st : Word) (i : Nat) (b : Bool) : StIs st (setBit st i b) [(i, b)] := (StIs.refl st).snoc_setBit rfl b

theorem registerTest_eq (s : State) (gs : GA) (d : Reg) (f : (v x st : Word) → Word) :
    let src := wordOperand s gs
    let x := src.2.2.readWord (regAddr s d.toNat)
    s.registerTest gs d f = x.2.setSt (f src.2.1 x.1 s.st) := by
  intro src x
  have hx : src.2.2.readReg d.toNat = x := readReg_eq_readWord (by simp [src]) _
  have hst : x.2.st = s.st := by simp [x, src]
  rw [← hst, ← hx]
  rfl

theorem exec_coc (gs : GA) (d : Reg) (s : State) :
    exec (.coc gs d) s =
      .next ((s.registerTest gs d fun v x st => eqFlag (v &&& x == v) st).pay (.coc gs d) .plain) := rfl

theorem exec_czc (gs : GA) (d : Reg) (s : State) :
    exec (.czc gs d) s =
      .next ((s.registerTest gs d fun v x st => eqFlag (v &&& x == 0#16) st).pay (.czc gs d) .plain) := rfl

theorem exec_xor (gs : GA) (d : Reg) (s : State) :
    let src := wordOperand s gs
    let x := src.2.2.readReg d.toNat
    exec (.xor gs d) s =
      .next (((x.2.setSt (lae (x.1 ^^^ src.2.1) x.2.st)).writeReg d.toNat (x.1 ^^^ src.2.1)).pay (.xor gs d) .plain) := rfl

/-- Settles O40: COC and CZC are the testing frame, which writes EQ alone; XOR also writes its register. -/
theorem registerLogic : Obligations.RegisterLogic := by
  intro gs d s src x
  refine ⟨?coc, ?czc, ?xor⟩
  case coc =>
    refine ⟨eqFlag (src.2.1 &&& x.1 == src.2.1) s.st, stIs_setBit _ _ _, ?_⟩
    rw [exec_coc, registerTest_eq, pay_eq_addCycles (s := s) (by simp)]
  case czc =>
    refine ⟨eqFlag (src.2.1 &&& x.1 == 0#16) s.st, stIs_setBit _ _ _, ?_⟩
    rw [exec_czc, registerTest_eq, pay_eq_addCycles (s := s) (by simp)]
  case xor =>
    refine ⟨lae (x.1 ^^^ src.2.1) s.st, stIs_lae _ _, ?_⟩
    have hx : src.2.2.readReg d.toNat = x := readReg_eq_readWord (by simp [src]) _
    have hst : x.2.st = s.st := by simp [x, src]
    rw [exec_xor, hx, hst, writeReg_eq_writeWord (s := s) (by simp [x, src]),
      pay_eq_addCycles (s := s) (by simp [x, src])]

/-! ## XOP -/

/-- The two vector words are read before the switch, which saves the PC after the operand's extension word. -/
theorem exec_xop (gs : GA) (n : BitVec 4) (s : State) :
    let a := s.ea gs .word
    let v : Word := BitVec.ofNat 16 (0x40 + 4 * n.toNat)
    let nwp := a.2.readWord v
    let npc := nwp.2.readWord (v + 2)
    let t := (npc.2.contextSwitch nwp.1 npc.1).writeReg 11 a.1
    exec (.xop gs n) s = .next (((t.setSt (setBit t.st bitX true)).setNoIntCheck true).pay (.xop gs n) .plain) := by
  intro a v nwp npc t
  have hv : v = 0x0040 + BitVec.ofNat 16 (4 * n.toNat) := BitVec.ofNat_add ..
  clear_value v
  subst hv
  rfl

/-- Settles O41: the saves are the switch's own, R11 is 22 bytes into the new workspace, and only then is X set. -/
theorem extendedOperation : Obligations.ExtendedOperation := by
  intro gs n s a v nwp npc t
  refine ⟨setBit s.st bitX true, stIs_setBit _ _ _, ?_⟩
  have hswitch : npc.2.contextSwitch nwp.1 npc.1 = t.setPc npc.1 := by
    rw [contextSwitch_eq]
    simp [t, npc, nwp, a]
  have hr11 : (t.setPc npc.1).writeReg 11 a.1 = (t.setPc npc.1).writeWord (evenAddr nwp.1 + 22) a.1 :=
    writeReg_of_wp (by simp [t]) 11 _
  have hst : ((t.setPc npc.1).writeWord (evenAddr nwp.1 + 22) a.1).st = s.st := by simp [t, npc, nwp, a]
  rw [exec_xop, hswitch, hr11, hst, pay_eq_addCycles (s := s) (by simp [t, npc, nwp, a])]

/-! ## MPY and DIV -/

/-- The product of two words fits two words. -/
theorem product_halves (x v : Word) :
    (BitVec.ofNat 16 (x.toNat * v.toNat / 65536)).toNat * 65536 + (BitVec.ofNat 16 (x.toNat * v.toNat)).toNat =
      x.toNat * v.toNat := by
  have hp : x.toNat * v.toNat < 65536 * 65536 := Nat.mul_lt_mul'' x.isLt v.isLt
  simp only [BitVec.toNat_ofNat]
  omega

theorem exec_mpy (gs : GA) (d : Reg) (s : State) :
    let src := wordOperand s gs
    let x := src.2.2.readReg d.toNat
    let p := x.1.toNat * src.2.1.toNat
    exec (.mpy gs d) s =
      .next (((x.2.writeReg d.toNat (BitVec.ofNat 16 (p / 65536))).writeReg (d.toNat + 1) (BitVec.ofNat 16 p)).pay
        (.mpy gs d) .plain) := rfl

/-- Settles O42: register 16 of the writing rule is the word after the workspace, so D = 15 is no case of its own. -/
theorem multiply : Obligations.Multiply := by
  intro gs d s src x
  refine ⟨_, _, product_halves x.1 src.2.1, ?_⟩
  have hx : src.2.2.readReg d.toNat = x := readReg_eq_readWord (by simp [src]) _
  rw [exec_mpy, hx, writeReg_eq_writeWord (s := s) (by simp [x, src]),
    writeReg_eq_writeWord (s := s) (by simp [x, src]), pay_eq_addCycles (s := s) (by simp [x, src])]

/-- The 32-bit dividend of DIV (R265). -/
def dividend (hi lo : Word) : Nat := hi.toNat * 65536 + lo.toNat

/-- A high word below the divisor is what makes the quotient fit a word. -/
theorem dividend_div_lt {hi v : Word} (h : hi.toNat < v.toNat) (lo : Word) : dividend hi lo / v.toNat < 2 ^ 16 := by
  rw [Nat.div_lt_iff_lt_mul (by omega), dividend]
  omega

theorem toNat_quotient {hi v : Word} (h : hi.toNat < v.toNat) (lo : Word) :
    (BitVec.ofNat 16 (dividend hi lo / v.toNat)).toNat = dividend hi lo / v.toNat := by
  rw [BitVec.toNat_ofNat, Nat.mod_eq_of_lt (dividend_div_lt h lo)]

theorem toNat_remainder {n : Nat} {v : Word} (h : 0 < v.toNat) : (BitVec.ofNat 16 (n % v.toNat)).toNat = n % v.toNat := by
  rw [BitVec.toNat_ofNat, Nat.mod_eq_of_lt ((Nat.mod_lt n h).trans v.isLt)]

theorem exec_div (gs : GA) (d : Reg) (s : State) :
    let src := wordOperand s gs
    let hi := src.2.2.readReg d.toNat
    let lo := hi.2.readReg (d.toNat + 1)
    let q := BitVec.ofNat 16 (dividend hi.1 lo.1 / src.2.1.toNat)
    let r := BitVec.ofNat 16 (dividend hi.1 lo.1 % src.2.1.toNat)
    let t := (lo.2.writeReg d.toNat q).writeReg (d.toNat + 1) r
    exec (.div gs d) s =
      if src.2.1 ≤ hi.1 then .next ((hi.2.setSt (setBit hi.2.st bitOv true)).pay (.div gs d) .overflow)
      else .next ((t.setSt (setBit t.st bitOv false)).pay (.div gs d) (.divided hi.1 lo.1 src.2.1)) := rfl

/-- Settles O43: the test is the overflow condition, and past it quotient and remainder fit a word each. -/
theorem divide : Obligations.Divide := by
  intro gs d s src v hi
  have hhi : src.2.2.readReg d.toNat = hi := readReg_eq_readWord (by simp [src]) _
  constructor
  · intro hle
    refine ⟨setBit s.st bitOv true, stIs_setBit _ _ _, ?_⟩
    have hst : hi.2.st = s.st := by simp [hi, src]
    rw [exec_div, hhi, if_pos (BitVec.le_def.mpr hle), hst, pay_eq_addCycles (s := s) (by simp [hi, src])]
  · intro hlt lo
    have hpos : 0 < v := Nat.zero_lt_of_lt hlt
    have hlo : hi.2.readReg (d.toNat + 1) = lo := readReg_eq_readWord (by simp [hi, src]) _
    let q := BitVec.ofNat 16 (dividend hi.1 lo.1 / v)
    let r := BitVec.ofNat 16 (dividend hi.1 lo.1 % v)
    have hq : q.toNat = dividend hi.1 lo.1 / v := toNat_quotient hlt lo.1
    have hr : r.toNat = dividend hi.1 lo.1 % v := toNat_remainder hpos
    refine ⟨q, r, setBit s.st bitOv false, ?_, hr ▸ Nat.mod_lt _ hpos, stIs_setBit _ _ _, ?_⟩
    · rw [hq, hr]
      exact Nat.div_add_mod' _ v
    · let t := (lo.2.writeWord (regAddr s d.toNat) q).writeWord (regAddr s (d.toNat + 1)) r
      have ht : (lo.2.writeReg d.toNat q).writeReg (d.toNat + 1) r = t := by
        rw [writeReg_eq_writeWord (s := s) (by simp [lo, hi, src]), writeReg_eq_writeWord (s := s) (by simp [lo, hi, src])]
      have hst : t.st = s.st := by simp [t, lo, hi, src]
      rw [exec_div, hhi, if_neg (BitVec.not_le.mpr (BitVec.lt_def.mpr hlt)), hlo, ht, hst,
        pay_eq_addCycles (s := s) (by simp [t, lo, hi, src])]

end Sys2Proof.Claims
end

section
/-! PROOFS. Format II, the jumps and the CRU single-bit instructions (43_jumps_crubit.md R280 to R299): the model adds a
sign-extended displacement at the width of the address, the statements add it as an integer and reduce. -/

namespace Sys2Proof.Claims

open Sys2Proof.Machine

/-! ## The thirteen jumps -/

/-- The displacement counts words (R280). -/
theorem add_two_mul_sextDisp (pc : Word) (disp : Byte) :
    pc + 2 * sextDisp disp = BitVec.ofInt 16 (pc.toNat + 2 * disp.toInt) := by
  rw [BitVec.ofInt_add, BitVec.ofInt_mul, BitVec.ofInt_natCast, BitVec.ofNat_toNat, BitVec.setWidth_eq]
  rfl

theorem jump_eq (s : State) (i : Instr) (cond : Bool) (disp : Byte) :
    s.jump i cond disp =
      if cond then (s.setPc (BitVec.ofInt 16 (s.pc.toNat + 2 * disp.toInt))).addCycles (cost s i .taken)
      else s.addCycles (cost s i .notTaken) := by
  rw [State.jump, add_two_mul_sextDisp, pay_eq_addCycles (s := s) (by simp), pay_eq_addCycles (s := s) rfl]

theorem jumpIs_of_exec {i : Instr} {disp : Byte} {cond : (l a e c o p : Bool) → Bool}
    (hexec : ∀ s, exec i s =
      .next (s.jump i (cond (s.st.getLsbD bitLgt) (s.st.getLsbD bitAgt) (s.st.getLsbD bitEq) (s.st.getLsbD bitC)
        (s.st.getLsbD bitOv) (s.st.getLsbD bitOp)) disp)) : JumpIs i disp cond := by
  intro s
  rw [hexec, jump_eq]
  rfl

/-- Settles O44: each of the thirteen is the jump frame with the condition its rule names. -/
theorem jumps : Obligations.Jumps := by
  intro disp
  refine ⟨?jmp, ?jlt, ?jle, ?jeq, ?jhe, ?jgt, ?jne, ?jnc, ?joc, ?jno, ?jl, ?jh, ?jop⟩
  all_goals exact jumpIs_of_exec fun _ => rfl

/-! ## SBO, SBZ and TB -/

@[simp] theorem cruBaseOf_md (s : State) : (cruBaseOf s).2.md = s.md := by simp [cruBaseOf]

@[simp] theorem cruBaseOf_st (s : State) : (cruBaseOf s).2.st = s.st := by simp [cruBaseOf]

/-- Bits 12 to 1 of R12 are half its value, modulo 4096 (R296). -/
theorem cruBase_eq (s : State) : s.cruBase = (BitVec.ofNat 12 (cruBaseOf s).1, (cruBaseOf s).2) := by
  have hr12 : s.readReg 12 = s.readWord (regAddr s 12) := readReg_eq_readWord rfl _
  have hbits (v : Word) : v.extractLsb' 1 12 = BitVec.ofNat 12 (v.toNat / 2 % 4096) := by
    apply BitVec.eq_of_toNat_eq
    simp [Nat.shiftRight_eq_div_pow]
  rw [State.cruBase, hr12, hbits]
  rfl

theorem cruBitAddr_eq (s : State) (disp : Byte) :
    s.cruBitAddr disp = (BitVec.ofInt 12 (((cruBaseOf s).1 : Int) + disp.toInt), (cruBaseOf s).2) := by
  rw [State.cruBitAddr, cruBase_eq, BitVec.ofInt_add, BitVec.ofInt_natCast]
  rfl

theorem exec_sbo (disp : Byte) (s : State) :
    let a := s.cruBitAddr disp
    exec (.sbo disp) s = .next ((a.2.cruWrite a.1 true).pay (.sbo disp) .plain) := rfl

theorem exec_sbz (disp : Byte) (s : State) :
    let a := s.cruBitAddr disp
    exec (.sbz disp) s = .next ((a.2.cruWrite a.1 false).pay (.sbz disp) .plain) := rfl

theorem exec_tb (disp : Byte) (s : State) :
    let a := s.cruBitAddr disp
    let r := a.2.cruRead a.1
    exec (.tb disp) s = .next ((r.2.setSt (eqFlag r.1 r.2.st)).pay (.tb disp) .plain) := rfl

/-- Settles O45: the three share the bit address; SBO and SBZ write there, TB reads there into EQ alone. -/
theorem cruBits : Obligations.CruBits := by
  intro disp s base a r
  have haddr : s.cruBitAddr disp = (a, base.2) := cruBitAddr_eq s disp
  refine ⟨?sbo, ?sbz, eqFlag r.1 s.st, stIs_setBit _ _ _, ?tb⟩
  case sbo => rw [exec_sbo, haddr, pay_eq_addCycles (s := s) (by simp [base])]
  case sbz => rw [exec_sbz, haddr, pay_eq_addCycles (s := s) (by simp [base])]
  case tb =>
    have hst : r.2.st = s.st := by simp [r, base]
    rw [exec_tb, haddr, hst, pay_eq_addCycles (s := s) (by simp [base])]

end Sys2Proof.Claims
end

section
/-! PROOFS. Format VI, one general address, X apart, and RTWP (45_single_operand.md R330 to R343, 46_immediate_control.md
R374): the modifying frame is one operand and one write, and the context switches read, save and load in a fixed order. -/

namespace Sys2Proof.Claims

open Sys2Proof.Machine

/-! ## The modifying frame -/

theorem singleModify_eq (s : State) (g : GA) (f : (v st : Word) → Word × Word) :
    let x := wordOperand s g
    let r := f x.2.1 s.st
    s.singleModify g f = (x.2.2.setSt r.2).writeWord x.1 r.1 := by
  intro x r
  have hst : x.2.2.st = s.st := by simp [x]
  simp only [r, ← hst]
  rfl

/-- The model's result `alu` need not be spelled as the rule's `f`, and its ST follows the rule's flag list. -/
theorem singleWord_of_exec {i : Instr} {g : GA} {alu : (v st : Word) → Word × Word} {f : Word → Word}
    {bits : Word → List (Nat × Bool)} (hexec : ∀ s, exec i s = .next ((s.singleModify g alu).pay i .plain))
    (hresult : ∀ v st, (alu v st).1 = f v) (hflags : ∀ v st, StIs st (alu v st).2 (bits v)) :
    SingleWord i g f bits := by
  intro s x
  refine ⟨(alu x.2.1 s.st).2, hflags _ _, ?_⟩
  rw [hexec, singleModify_eq, hresult, pay_eq_addCycles (s := s) (by simp)]

/-! ## CLR, SETO, INV and SWPB -/

theorem exec_clr (g : GA) (s : State) :
    let a := s.ea g .word
    exec (.clr g) s = .next ((a.2.writeWord a.1 0x0000).pay (.clr g) .plain) := rfl

theorem exec_seto (g : GA) (s : State) :
    let a := s.ea g .word
    exec (.seto g) s = .next ((a.2.writeWord a.1 0xFFFF).pay (.seto g) .plain) := rfl

theorem not_eq_ofNat_sub (v : Word) : ~~~v = BitVec.ofNat 16 (65535 - v.toNat) := by
  apply BitVec.eq_of_toNat_eq
  rw [BitVec.toNat_not, BitVec.toNat_ofNat]
  omega

theorem toNat_hiByte (v : Word) : (hiByte v).toNat = v.toNat / 256 := by
  simp only [hiByte, BitVec.extractLsb'_toNat, Nat.shiftRight_eq_div_pow]
  omega

theorem toNat_loByte (v : Word) : (loByte v).toNat = v.toNat % 256 := by simp [loByte]

/-- Big-endian (20_memory.md R101). -/
theorem toNat_joinBytes (hi lo : Byte) : (joinBytes hi lo).toNat = hi.toNat * 256 + lo.toNat := by
  rw [joinBytes, BitVec.toNat_append, ← Nat.shiftLeft_add_eq_or_of_lt lo.isLt, Nat.shiftLeft_eq]

theorem joinBytes_swap (v : Word) :
    joinBytes (loByte v) (hiByte v) = BitVec.ofNat 16 (v.toNat % 256 * 256 + v.toNat / 256) := by
  apply BitVec.eq_of_toNat_eq
  rw [toNat_joinBytes, toNat_loByte, toNat_hiByte, BitVec.toNat_ofNat]
  omega

/-- Settles O52: CLR and SETO write where the address resolves, unread; INV and SWPB are the modifying frame, SWPB with ST
as it was. -/
theorem operandSetters : Obligations.OperandSetters := by
  intro g
  refine ⟨?clr_seto, ?inv, ?swpb⟩
  case clr_seto =>
    intro s a
    constructor
    · rw [exec_clr, pay_eq_addCycles (s := s) (by simp)]
    · rw [exec_seto, pay_eq_addCycles (s := s) (by simp)]
  case inv =>
    refine singleWord_of_exec (fun _ => rfl) (fun v _ => not_eq_ofNat_sub v) fun v st => ?_
    rw [← not_eq_ofNat_sub]
    exact stIs_lae _ st
  case swpb => exact singleWord_of_exec (fun _ => rfl) (fun v _ => joinBytes_swap v) fun _ st => StIs.refl st

/-! ## NEG, INC, INCT, DEC and DECT -/

/-- 0 - v borrows unless v is 0, and only the most negative word has no negative (R334). -/
theorem subBits_zero (v : Word) :
    subBits 0 v = [(12, decide (v = 0)), (11, decide (v = 0x8000))] ++ laeBits (0 - v) := by
  have hcarry : v.toNat ≤ (0 : Word).toNat ↔ v = 0 := by simp [BitVec.toNat_eq]
  have hoverflow : ((0 : Word).msb != v.msb && (0 - v).msb != (0 : Word).msb) = decide (v = 0x8000) := by
    rw [Bool.eq_iff_iff]
    simp only [BitVec.msb_eq_decide, Bool.and_eq_true, bne_iff_ne, ne_eq, decide_eq_decide, decide_eq_true_eq]
    bv_omega
  rw [subBits_eq, hoverflow, decide_eq_decide.mpr hcarry]

/-- Only the most negative word less 1 changes its sign past the range (R338). -/
theorem subBits_one (v : Word) :
    subBits v 1 = [(12, decide (1 ≤ v.toNat)), (11, decide (v = 0x8000))] ++ laeBits (v - 1) := by
  have hoverflow : (v.msb != (1 : Word).msb && (v - 1).msb != v.msb) = decide (v = 0x8000) := by
    rw [Bool.eq_iff_iff]
    simp only [BitVec.msb_eq_decide, Bool.and_eq_true, bne_iff_ne, ne_eq, decide_eq_decide, decide_eq_true_eq]
    bv_omega
  rw [subBits_eq, hoverflow]
  rfl

/-- Settles O53: the modifying frame with an addition or a subtraction; NEG's and DEC's flags are a subtraction's, made
explicit. -/
theorem counting : Obligations.Counting := by
  intro g
  refine ⟨?neg, ?inc, ?inct, ?dec, ?dect⟩
  case neg => exact singleWord_of_exec (fun _ => rfl) (fun _ _ => rfl) fun v st => subBits_zero v ▸ stIs_subFlags 0 v st
  case inc => exact singleWord_of_exec (fun _ => rfl) (fun _ _ => rfl) fun v st => stIs_addFlags v 1 st
  case inct => exact singleWord_of_exec (fun _ => rfl) (fun _ _ => rfl) fun v st => stIs_addFlags v 2 st
  case dec => exact singleWord_of_exec (fun _ => rfl) (fun _ _ => rfl) fun v st => subBits_one v ▸ stIs_subFlags v 1 st
  case dect => exact singleWord_of_exec (fun _ => rfl) (fun _ _ => rfl) fun v st => stIs_subFlags v 2 st

/-! ## ABS -/

/-- The comparison with zero writes bits 15 to 13 alone, so it may come before or after a lower bit is set. -/
theorem lae_setBit {w : Nat} (v : BitVec w) (st : Word) {i : Nat} (hi : i < 13) (b : Bool) :
    lae v (setBit st i b) = setBit (lae v st) i b := by
  apply BitVec.eq_of_getLsbD_eq
  intro j hj
  simp only [lae_getLsbD, setBit_getLsbD]
  by_cases hji : j = i
  · simp [hji, show i ≠ 15 by omega, show i ≠ 14 by omega, show i ≠ 13 by omega]
  · simp [hji]

/-- ST after ABS of `v` (R343): the original value against zero, no carry, overflow when it has no negative. -/
def absFlags (v st : Word) : Word := setBit (setBit (lae v st) bitC false) bitOv (v == 0x8000#16)

theorem stIs_absFlags (v st : Word) :
    StIs st (absFlags v st) ([(12, false), (11, decide (v = 0x8000))] ++ laeBits v) := by
  rw [absFlags, beq_eq_decide, ← lae_setBit v st (by decide), ← lae_setBit v _ (by decide)]
  exact stIs_carry_overflow_lae _ _ v st

theorem exec_abs (g : GA) (s : State) :
    let x := wordOperand s g
    let t := x.2.2.setSt (absFlags x.2.1 x.2.2.st)
    exec (.abs g) s =
      if x.2.1.msb then .next ((t.writeWord x.1 (0#16 - x.2.1)).pay (.abs g) .negative)
      else .next (t.pay (.abs g) .nonNegative) := rfl

theorem zero_sub_eq_ofInt_neg (v : Word) : 0#16 - v = BitVec.ofInt 16 (-v.toInt) := by
  rw [BitVec.ofInt_neg, BitVec.ofInt_toInt, BitVec.zero_sub]

/-- Settles O54: the sign bit separates the operands that are written from those that are not. -/
theorem absoluteValue : Obligations.AbsoluteValue := by
  intro g s x
  have hst : x.2.2.st = s.st := by simp [x]
  refine ⟨absFlags x.2.1 s.st, stIs_absFlags _ _, fun hneg => ?_, fun hnonneg => ?_⟩
  · have hmsb : x.2.1.msb = true := by rw [BitVec.msb_eq_toInt]; exact decide_eq_true hneg
    rw [exec_abs, if_pos hmsb, hst, zero_sub_eq_ofInt_neg, pay_eq_addCycles (s := s) (by simp)]
  · have hmsb : ¬ x.2.1.msb = true := by rw [BitVec.msb_eq_toInt]; simpa using hnonneg
    rw [exec_abs, if_neg hmsb, hst, pay_eq_addCycles (s := s) (by simp)]

/-! ## B and BL -/

theorem exec_b (g : GA) (s : State) :
    let a := s.ea g .word
    exec (.b g) s = .next ((a.2.setPc a.1).pay (.b g) .plain) := rfl

theorem exec_bl (g : GA) (s : State) :
    let a := s.ea g .word
    exec (.bl g) s = .next (((a.2.writeReg 11 a.2.pc).setPc a.1).pay (.bl g) .plain) := rfl

/-- Settles O50: the target is resolved first, and R11 is that of the workspace the instruction started in. (`branches` is
the statements' own predicate.) -/
theorem branches_b_bl : Obligations.Branches := by
  intro g s a
  constructor
  · rw [exec_b, pay_eq_addCycles (s := s) (by simp)]
  · rw [exec_bl, writeReg_eq_writeWord (s := s) (by simp), pay_eq_addCycles (s := s) (by simp)]

/-! ## BLWP and RTWP -/

/-- Both vector words are read before the switch, which saves the PC after the operand's extension word. -/
theorem exec_blwp (g : GA) (s : State) :
    let a := s.ea g .word
    let nwp := a.2.readWord a.1
    let npc := nwp.2.readWord (a.1 + 2)
    exec (.blwp g) s = .next (((npc.2.contextSwitch nwp.1 npc.1).setNoIntCheck true).pay (.blwp g) .plain) := rfl

theorem exec_rtwp (s : State) : exec .rtwp s = .next (s.returnContext.pay .rtwp .plain) := rfl

/-- The reserved bits 8 to 4 of ST are dropped (10_state.md R54). -/
theorem and_stMask_getLsbD (v : Word) {j : Nat} (hj : j < 16) :
    (v &&& stMask).getLsbD j = (v.getLsbD j && !decide (4 ≤ j ∧ j ≤ 8)) := by
  have hmask : ∀ k : Fin 16, stMask.getLsbD k.val = !decide (4 ≤ k.val ∧ k.val ≤ 8) := by decide
  rw [BitVec.getLsbD_and, hmask ⟨j, hj⟩]

/-- The three words come from the workspace the return starts in. -/
theorem returnContext_eq (s : State) :
    let nst := s.readWord (regAddr s 15)
    let npc := nst.2.readWord (regAddr s 14)
    let nwp := npc.2.readWord (regAddr s 13)
    s.returnContext = ((nwp.2.setSt (nst.1 &&& stMask)).setPc npc.1).setWp nwp.1 := by
  intro nst npc nwp
  have h15 : s.readReg 15 = nst := readReg_eq_readWord rfl _
  have h14 : nst.2.readReg 14 = npc := readReg_eq_readWord (by simp [nst]) _
  have h13 : npc.2.readReg 13 = nwp := readReg_eq_readWord (by simp [npc, nst]) _
  rw [State.returnContext, h15, h14, h13, State.loadSt]

/-- Settles O49: BLWP is the shared switch through the vector at its operand, RTWP the shared return. -/
theorem blwpRtwp : Obligations.BlwpRtwp := by
  intro g s
  constructor
  · intro a nwp npc t
    have hswitch : npc.2.contextSwitch nwp.1 npc.1 = t.setPc npc.1 := by
      rw [contextSwitch_eq]
      simp [t, npc, nwp, a]
    rw [exec_blwp, hswitch, pay_eq_addCycles (s := s) (by simp [t, npc, nwp, a])]
  · intro nst npc nwp
    refine ⟨nst.1 &&& stMask, fun _ => and_stMask_getLsbD nst.1, ?_⟩
    rw [exec_rtwp, returnContext_eq, pay_eq_addCycles (s := s) (by simp)]

end Sys2Proof.Claims
end

section
/-! PROOFS. Formats VIII and VII, immediate and control instructions, and the ILLEGAL words (46_immediate_control.md R360 to
R380): the immediate is fetched before the register is touched, and an ILLEGAL word is its range's opcode bits before the free
bits that its term holds. -/

namespace Sys2Proof.Claims

open Sys2Proof.Machine Sys2Proof.Laws

/-! ## AI, ANDI and ORI: the frame of an immediate and a register (R360) -/

theorem immediateModify_eq (s : State) (w : Reg) (f : (x imm st : Word) → Word × Word) :
    let imm := s.fetch
    let x := imm.2.readWord (regAddr s w.toNat)
    let r := f x.1 imm.1 s.st
    s.immediateModify w f = (x.2.setSt r.2).writeWord (regAddr s w.toNat) r.1 := by
  intro imm x r
  have hx : imm.2.readReg w.toNat = x := readReg_eq_readWord (by simp [imm]) _
  have hst : x.2.st = s.st := by simp [x, imm]
  rw [← writeReg_eq_writeWord (s := s) (by simp [x, imm])]
  simp only [r, ← hst, ← hx]
  rfl

theorem immediateWord_of_exec {i : Instr} {w : Reg} {f : (x imm : Word) → Word} {flags : (x imm st : Word) → Word}
    {bits : (x imm : Word) → List (Nat × Bool)}
    (hexec : ∀ s, exec i s = .next ((s.immediateModify w fun x imm st => (f x imm, flags x imm st)).pay i .plain))
    (hflags : ∀ x imm st, StIs st (flags x imm st) (bits x imm)) : ImmediateWord i w f bits := by
  intro s imm x
  refine ⟨flags x.1 imm.1 s.st, hflags _ _ _, ?_⟩
  rw [hexec, immediateModify_eq, pay_eq_addCycles (s := s) (by simp)]

/-! ## LI and CI -/

theorem exec_li (w : Reg) (s : State) :
    let imm := s.fetch
    exec (.li w) s = .next (((imm.2.setSt (lae imm.1 imm.2.st)).writeReg w.toNat imm.1).pay (.li w) .plain) := rfl

theorem exec_ci (w : Reg) (s : State) :
    let imm := s.fetch
    let x := imm.2.readReg w.toNat
    exec (.ci w) s = .next ((x.2.setSt (cmpFlags x.1 imm.1 x.2.st)).pay (.ci w) .plain) := rfl

/-- Settles O55: AI, ANDI and ORI are the immediate frame with their own result and flag rule; LI leaves out the read, CI
the write. -/
theorem immediates : Obligations.Immediates := by
  intro w
  refine ⟨?li, ?ai, ?andi, ?ori, ?ci⟩
  case li =>
    intro s imm
    have hst : imm.2.st = s.st := by simp [imm]
    refine ⟨lae imm.1 s.st, stIs_lae _ _, ?_⟩
    rw [exec_li, hst, writeReg_eq_writeWord (s := s) (by simp), pay_eq_addCycles (s := s) (by simp)]
  case ai => exact immediateWord_of_exec (fun _ => rfl) stIs_addFlags
  case andi => exact immediateWord_of_exec (fun _ => rfl) fun _ _ => stIs_lae _
  case ori => exact immediateWord_of_exec (fun _ => rfl) fun _ _ => stIs_lae _
  case ci =>
    intro s imm x
    have hx : imm.2.readReg w.toNat = x := readReg_eq_readWord (by simp [imm]) _
    have hst : x.2.st = s.st := by simp [x, imm]
    refine ⟨cmpFlags x.1 imm.1 s.st, stIs_cmpFlags _ _ _, ?_⟩
    rw [exec_ci, hx, hst, pay_eq_addCycles (s := s) (by simp [x, imm])]

/-! ## STWP, STST, LWPI and LIMI -/

theorem exec_stwp (w : Reg) (s : State) :
    exec (.stwp w) s = .next ((s.writeReg w.toNat s.wp).pay (.stwp w) .plain) := rfl

theorem exec_stst (w : Reg) (s : State) :
    exec (.stst w) s = .next ((s.writeReg w.toNat s.st).pay (.stst w) .plain) := rfl

theorem exec_lwpi (s : State) : exec .lwpi s = .next ((s.fetch.2.setWp s.fetch.1).pay .lwpi .plain) := rfl

theorem exec_limi (s : State) :
    let imm := s.fetch
    exec .limi s = .next ((imm.2.setSt (setIntMask imm.2.st (imm.1.extractLsb' 0 4))).pay .limi .plain) := rfl

/-- IM is bits 3 to 0 of ST (10_state.md R54). -/
theorem stIs_setIntMask (st : Word) (im : BitVec 4) : StIs st (setIntMask st im) (maskBits im.toNat) := by
  intro j _
  rw [setIntMask_getLsbD]
  by_cases hj : j < 4
  · rw [if_pos hj]
    interval_cases j <;> rfl
  · have hne : ∀ k < 4, (j == k) = false := fun k hk => beq_false_of_ne (by omega)
    simp [hj, maskBits, List.lookup, hne]

/-- Settles O56: each is its own write of a register, of WP or of IM. -/
theorem internalRegisters : Obligations.InternalRegisters := by
  intro w s
  refine ⟨?stwp, ?stst, ?lwpi, setIntMask s.st (s.fetch.1.extractLsb' 0 4), ?mask, ?limi⟩
  case stwp => rw [exec_stwp, writeReg_eq_writeWord (s := s) rfl, pay_eq_addCycles (s := s) (by simp)]
  case stst => rw [exec_stst, writeReg_eq_writeWord (s := s) rfl, pay_eq_addCycles (s := s) (by simp)]
  case lwpi => rw [exec_lwpi, pay_eq_addCycles (s := s) (by simp)]
  case mask =>
    have him : (s.fetch.1.extractLsb' 0 4).toNat = s.fetch.1.toNat % 16 := by simp
    rw [← him]
    exact stIs_setIntMask _ _
  case limi => rw [exec_limi, fetch_st, pay_eq_addCycles (s := s) (by simp)]

/-! ## The ILLEGAL ranges (30_encoding.md R186) -/

/-- The words from `op` followed by zeros to `op` followed by ones are those that begin with `op`. -/
theorem extractLsb'_of_range {m l : Nat} {w : BitVec (m + l)} {op : BitVec m} (hlo : op.toNat * 2 ^ l ≤ w.toNat)
    (hhi : w.toNat < (op.toNat + 1) * 2 ^ l) : w.extractLsb' l m = op := by
  apply BitVec.eq_of_toNat_eq
  rw [BitVec.extractLsb'_toNat, Nat.shiftRight_eq_div_pow, Nat.div_eq_of_lt_le hlo hhi, Nat.mod_eq_of_lt op.isLt]

theorem append_eq_ofNat {m l : Nat} (op : BitVec m) (low : BitVec l) :
    op ++ low = BitVec.ofNat (m + l) (op.toNat * 2 ^ l + low.toNat) := by
  apply BitVec.eq_of_toNat_eq
  rw [← Nat.shiftLeft_eq, Nat.shiftLeft_add_eq_or_of_lt low.isLt, ← BitVec.toNat_append, BitVec.ofNat_toNat,
    BitVec.setWidth_eq]

theorem exec_illegal0000 (low : BitVec 9) (s : State) :
    exec (.illegal0000 low) s = .next (s.invalidOpcode (0#7 ++ low)) := rfl

theorem exec_illegal0320 (low : BitVec 5) (s : State) :
    exec (.illegal0320 low) s = .next (s.invalidOpcode (0x19#11 ++ low)) := rfl

theorem exec_illegal0780 (low : BitVec 7) (s : State) :
    exec (.illegal0780 low) s = .next (s.invalidOpcode (0x0F#9 ++ low)) := rfl

theorem exec_illegal0C00 (low : BitVec 10) (s : State) :
    exec (.illegal0C00 low) s = .next (s.invalidOpcode (0x03#6 ++ low)) := rfl

/-- A word that encodes `i` is decoded to `i`, so it is logged where `i` logs its own encoding. -/
theorem exec_decodeWord_of_invalidOpcode {i : Instr} {w : Word} {s : State} (hwf : i.wf = true)
    (hexec : exec i s = .next (s.invalidOpcode (encodeWord i))) (henc : encodeWord i = w) :
    exec (decodeWord w) s = .next (s.invalidOpcode w) := by
  rw [← henc, decodeWord_encodeWord hwf, hexec]

/-- The bounds of each range are those of the words that begin with its opcode bits. -/
theorem exec_decodeWord_of_illegal {w : Word}
    (h : w.toNat ≤ 0x01FF ∨ (0x0320 ≤ w.toNat ∧ w.toNat ≤ 0x033F) ∨ (0x0780 ≤ w.toNat ∧ w.toNat ≤ 0x07FF) ∨
      (0x0C00 ≤ w.toNat ∧ w.toNat ≤ 0x0FFF)) (s : State) : exec (decodeWord w) s = .next (s.invalidOpcode w) := by
  obtain hhi | ⟨hlo, hhi⟩ | ⟨hlo, hhi⟩ | ⟨hlo, hhi⟩ := h
  · exact exec_decodeWord_of_invalidOpcode rfl (exec_illegal0000 _ s)
      (append_operand (extractLsb'_of_range (by simp) (Nat.lt_succ_of_le hhi)))
  · exact exec_decodeWord_of_invalidOpcode rfl (exec_illegal0320 _ s)
      (append_operand (extractLsb'_of_range hlo (Nat.lt_succ_of_le hhi)))
  · exact exec_decodeWord_of_invalidOpcode rfl (exec_illegal0780 _ s)
      (append_operand (extractLsb'_of_range hlo (Nat.lt_succ_of_le hhi)))
  · exact exec_decodeWord_of_invalidOpcode rfl (exec_illegal0C00 _ s)
      (append_operand (extractLsb'_of_range hlo (Nat.lt_succ_of_le hhi)))

/-- Settles O58: the words of a range decode to its constructor, which logs the word it encodes to, here as a number. -/
theorem illegalWords : Obligations.IllegalWords := by
  intro s logged
  have hlogged (w : Word) : s.invalidOpcode w = logged w := rfl
  refine ⟨fun w h => ?words, fun low => ?r0000, fun low => ?r0320, fun low => ?r0780, fun low => ?r0C00⟩
  case words => rw [exec_decodeWord_of_illegal h, hlogged]
  case r0000 => rw [exec_illegal0000, append_eq_ofNat, hlogged, BitVec.toNat_zero, Nat.zero_mul, Nat.zero_add]
  case r0320 => rw [exec_illegal0320, append_eq_ofNat, hlogged]; rfl
  case r0780 => rw [exec_illegal0780, append_eq_ofNat, hlogged]; rfl
  case r0C00 => rw [exec_illegal0C00, append_eq_ofNat, hlogged]; rfl

end Sys2Proof.Claims
end

section
/-! PROOFS. The timer (60_exceptions.md R440, R441): a sample is the periods elapsed since the last one, and m periods followed
by n more are m + n periods, so that samples in between do not show. -/

namespace Sys2Proof.Machine

/-! ## Raising a request (60_exceptions.md R426) -/

theorem canRequest_lt {p : Nat} (hp : canRequest p = true) : p < 32 := by
  simp only [canRequest, Bool.and_eq_true, decide_eq_true_eq] at hp
  omega

theorem Controller.raise_of_req {c : Controller} {p : Nat} (h : c.req.getLsbD p = true) : c.raise p = c := by
  simp [Controller.raise, h]

theorem Controller.raise_req {c : Controller} {p : Nat} (hp : canRequest p = true) (q : Nat) :
    (c.raise p).req.getLsbD q = (decide (q = p) || c.req.getLsbD q) := by
  cases hreq : c.req.getLsbD p with
  | true =>
    rw [Controller.raise_of_req hreq]
    by_cases hqp : q = p <;> simp [hqp, hreq]
  | false =>
    have hset : (c.raise p).req = setBit c.req p true := by simp [Controller.raise, hp, hreq]
    rw [hset, setBit_getLsbD]
    by_cases hqp : q = p <;> simp [hqp, canRequest_lt hp]

theorem Controller.raise_raise {c : Controller} {p : Nat} (hp : canRequest p = true) :
    (c.raise p).raise p = c.raise p :=
  Controller.raise_of_req (by simp [Controller.raise_req hp])

@[simp] theorem Controller.raise_clock (c : Controller) (p : Nat) : (c.raise p).clock = c.clock :=
  (sameLines_raise c p).clock

theorem Controller.raise_setDec (c : Controller) (p : Nat) (dec : BitVec 14) :
    ({ c with dec := dec } : Controller).raise p = { c.raise p with dec := dec } := by
  unfold Controller.raise
  split <;> rfl

theorem Controller.raise_setDelta (c : Controller) (p d : Nat) :
    ({ c with tDelta := d } : Controller).raise p = { c.raise p with tDelta := d } := by
  unfold Controller.raise
  split <;> rfl

/-! ## The decrementer over k periods -/

/-- The controller after `k` periods of a running timer, the sample's own bookkeeping apart. -/
def Controller.elapse (c : Controller) (k : Nat) : Controller :=
  if k = 0 then c
  else if k < c.dec.toNat then { c with dec := BitVec.ofNat 14 (c.dec.toNat - k) }
  else { c.raise 3 with dec := BitVec.ofNat 14 (c.clock.toNat - (k - c.dec.toNat) % c.clock.toNat) }

theorem Controller.elapse_zero (c : Controller) : c.elapse 0 = c := rfl

theorem Controller.elapse_of_lt {c : Controller} {k : Nat} (h : k < c.dec.toNat) :
    c.elapse k = { c with dec := BitVec.ofNat 14 (c.dec.toNat - k) } := by
  obtain rfl | hk := Nat.eq_zero_or_pos k
  · simp [Controller.elapse_zero]
  · rw [Controller.elapse, if_neg hk.ne', if_pos h]

theorem Controller.elapse_of_le {c : Controller} {k : Nat} (hk : 0 < k) (h : c.dec.toNat ≤ k) :
    c.elapse k =
      { c.raise 3 with dec := BitVec.ofNat 14 (c.clock.toNat - (k - c.dec.toNat) % c.clock.toNat) } := by
  rw [Controller.elapse, if_neg hk.ne', if_neg h.not_gt]

theorem Controller.elapse_keeps (c : Controller) (k : Nat) :
    (c.elapse k).clock = c.clock ∧ (c.elapse k).tBase = c.tBase ∧ (c.elapse k).tDelta = c.tDelta := by
  have hraise := sameLines_raise c 3
  unfold Controller.elapse
  split
  case isTrue => exact ⟨rfl, rfl, rfl⟩
  case isFalse =>
    split
    case isTrue => exact ⟨rfl, rfl, rfl⟩
    case isFalse => exact ⟨hraise.clock, hraise.tBase, hraise.tDelta⟩

theorem Controller.elapse_setDelta (c : Controller) (k d : Nat) :
    ({ c with tDelta := d } : Controller).elapse k = { c.elapse k with tDelta := d } := by
  unfold Controller.elapse
  split
  case isTrue => rfl
  case isFalse =>
    split
    case isTrue => rfl
    case isFalse => rw [Controller.raise_setDelta]

theorem toNat_ofNat_le {n : Nat} {v : BitVec 14} (h : n ≤ v.toNat) : (BitVec.ofNat 14 n).toNat = n := by
  rw [BitVec.toNat_ofNat, Nat.mod_eq_of_lt (by omega)]

/-- Reloads come every `K` periods; `n` periods after the decrementer read `K - m % K` it has not reached zero again. -/
theorem reload_sub {K m n : Nat} (h : n < K - m % K) : K - m % K - n = K - (m + n) % K := by
  rw [← Nat.mod_add_mod, Nat.mod_eq_of_lt (a := m % K + n) (by omega)]
  omega

/-- The same when it has. -/
theorem reload_mod {K m n : Nat} (hK : 0 < K) (h : K - m % K ≤ n) : (n - (K - m % K)) % K = (m + n) % K := by
  have hm : m % K < K := Nat.mod_lt m hK
  rw [← Nat.mod_add_mod, Nat.mod_eq_sub_mod (a := m % K + n) (by omega)]
  congr 1
  omega

theorem Controller.elapse_elapse {c : Controller} (hclock : 0 < c.clock.toNat) (m n : Nat) :
    (c.elapse m).elapse n = c.elapse (m + n) := by
  obtain rfl | hm := Nat.eq_zero_or_pos m
  · rw [Controller.elapse_zero, Nat.zero_add]
  obtain rfl | hn := Nat.eq_zero_or_pos n
  · rfl
  obtain hlt | hle := Nat.lt_or_ge m c.dec.toNat
  · have hdec := toNat_ofNat_le (Nat.sub_le c.dec.toNat m)
    rw [Controller.elapse_of_lt hlt]
    obtain hlt' | hle' := Nat.lt_or_ge (m + n) c.dec.toNat
    · rw [Controller.elapse_of_lt (by rw [hdec]; omega), Controller.elapse_of_lt hlt', hdec, Nat.sub_sub]
    · rw [Controller.elapse_of_le hn (by rw [hdec]; omega), Controller.elapse_of_le (by omega) hle', hdec,
        Nat.sub_sub_right _ hlt.le, Nat.add_comm n m, Controller.raise_setDec]
  · have hdec := toNat_ofNat_le (Nat.sub_le c.clock.toNat ((m - c.dec.toNat) % c.clock.toNat))
    have hsum : m + n - c.dec.toNat = m - c.dec.toNat + n := by omega
    rw [Controller.elapse_of_le hm hle, Controller.elapse_of_le (by omega) (by omega : c.dec.toNat ≤ m + n), hsum]
    obtain hlt' | hle' := Nat.lt_or_ge n (c.clock.toNat - (m - c.dec.toNat) % c.clock.toNat)
    · rw [Controller.elapse_of_lt (by rw [hdec]; exact hlt'), hdec, reload_sub hlt']
    · rw [Controller.elapse_of_le hn (by rw [hdec]; exact hle'), hdec, Controller.raise_clock, reload_mod hclock hle',
        Controller.raise_setDec, Controller.raise_raise rfl]

/-! ## Samples -/

theorem Controller.timerSample_of_stopped {c : Controller} (hclock : c.clock = 0#14) (now : Nat) :
    c.timerSample now = c := by
  rw [Controller.timerSample, if_pos hclock]

/-- A sample elapses the periods that no earlier sample has counted. -/
theorem Controller.timerSample_of_running {c : Controller} (hclock : 0 < c.clock.toNat) (now : Nat) :
    c.timerSample now =
      { c.elapse ((now - c.tBase) / 64 - c.tDelta) with tDelta := (now - c.tBase) / 64 } := by
  have hne : c.clock ≠ 0#14 := fun h => by simp [h] at hclock
  rw [← Controller.elapse_setDelta, Controller.timerSample, if_neg hne]
  rfl

/-- A sample in between counts its share of the periods and leaves the rest to the later one. -/
theorem Controller.timerSample_timerSample {c : Controller} {t1 t2 : Nat} (ht : t1 ≤ t2)
    (hdelta : c.tDelta ≤ (t1 - c.tBase) / 64) : (c.timerSample t1).timerSample t2 = c.timerSample t2 := by
  obtain hstopped | hrunning := Nat.eq_zero_or_pos c.clock.toNat
  · have hclock : c.clock = 0#14 := BitVec.eq_of_toNat_eq hstopped
    rw [Controller.timerSample_of_stopped hclock t1]
  · obtain ⟨hclock, hbase, -⟩ := c.elapse_keeps ((t1 - c.tBase) / 64 - c.tDelta)
    have hlater : (t1 - c.tBase) / 64 ≤ (t2 - c.tBase) / 64 := Nat.div_le_div_right (by omega)
    have hperiods : (t1 - c.tBase) / 64 - c.tDelta + ((t2 - c.tBase) / 64 - (t1 - c.tBase) / 64) =
        (t2 - c.tBase) / 64 - c.tDelta := by omega
    rw [Controller.timerSample_of_running hrunning t1, Controller.timerSample_of_running (by rw [hclock]; exact hrunning),
      Controller.timerSample_of_running hrunning t2, Controller.elapse_setDelta, hbase, Controller.elapse_elapse hrunning,
      hperiods]

theorem Controller.timerSample_of_restarted {c : Controller} {t0 n j : Nat} (hclock : 0 < c.clock.toNat)
    (hbase : c.tBase = t0) (hdelta : c.tDelta = 0) (hj : j < 64) :
    c.timerSample (t0 + 64 * n + j) = { c.elapse n with tDelta := n } := by
  have hperiods : (t0 + 64 * n + j - t0) / 64 = n := by omega
  rw [Controller.timerSample_of_running hclock, hbase, hperiods, hdelta, Nat.sub_zero]

/-- Settles O26: a sample n periods after the timer was started elapses n periods, of which K bring the first reload. -/
theorem timerProperties : Obligations.TimerProperties := by
  refine ⟨fun c bit b t0 => ⟨rfl, rfl, rfl⟩, fun c t0 n j hclock hdec hbase hdelta hj => ?count,
    fun c t1 t2 _ ht hdelta => Controller.timerSample_timerSample ht hdelta⟩
  case count =>
    rw [Controller.timerSample_of_restarted hclock hbase hdelta hj]
    refine ⟨fun hlt => ?_, fun hle => ?_⟩
    · rw [Controller.elapse_of_lt (by rw [hdec]; exact hlt), hdec]
      exact ⟨toNat_ofNat_le (Nat.sub_le _ _), rfl⟩
    · rw [Controller.elapse_of_le (Nat.lt_of_lt_of_le hclock hle) (by rw [hdec]; exact hle), hdec]
      exact ⟨toNat_ofNat_le (Nat.sub_le _ _), fun q _ => Controller.raise_req rfl q⟩

end Sys2Proof.Machine
end

section
/-! PROOFS. The interrupt check (60_exceptions.md R412 to R414): its three outcomes, and the entry as the two vector words, the
shared context switch and the new interrupt mask. -/

namespace Sys2Proof.Claims

open Sys2Proof.Machine

/-- The level is compared with the number in bits 3 to 0 of ST (10_state.md R54). -/
theorem intMask_toNat (st : Word) : (intMask st).toNat = st.toNat % 16 := by simp [intMask]

theorem intReq_eq_decide (c : Controller) : c.intReq = decide (c.intCount ≠ 0) := by
  by_cases h : c.intCount = 0 <;> simp [Controller.intReq, h]

/-! ## The three outcomes of the check -/

/-- The state after the check has sampled the timer and INTREQ. -/
def sampled (s : State) : State :=
  { s with io := s.io.timerSample s.cycles, intPending := decide ((s.io.timerSample s.cycles).intCount ≠ 0) }

theorem sampled_intPending (s : State) :
    (sampled s).intPending = true ↔ (s.io.timerSample s.cycles).intCount ≠ 0 := decide_eq_true_iff

theorem interruptCheck_of_suppressed {s : State} (h : s.noIntCheck = true) :
    s.interruptCheck = s.setNoIntCheck false := by
  rw [State.interruptCheck, if_pos h]

theorem interruptCheck_eq {s : State} (h : s.noIntCheck = false) :
    s.interruptCheck =
      if (s.io.timerSample s.cycles).intCount ≠ 0 ∧ s.md.cpuIntLevel ≤ s.st.toNat % 16 then
        (sampled s).interruptEntry s.md.cpuIntLevel
      else sampled s := by
  have hsampled : s.timerSample.setIntPending s.timerSample.io.intReq = sampled s := by
    rw [intReq_eq_decide]
    rfl
  rw [State.interruptCheck, if_neg (by simp [h])]
  dsimp only
  rw [hsampled, ← intMask_toNat]
  simp only [Bool.and_eq_true, decide_eq_true_eq, sampled_intPending]
  rfl

/-! ## The entry -/

/-- After the switch, IM is lowered, an idle machine wakes (60_exceptions.md R416), and the entry is paid. -/
theorem interruptEntry_of_contextSwitch {u t : State} {level : Nat}
    (h : (u.readVector (BitVec.ofNat 16 (4 * level))).2.contextSwitch
      (u.readVector (BitVec.ofNat 16 (4 * level))).1.1 (u.readVector (BitVec.ofNat 16 (4 * level))).1.2 = t) :
    u.interruptEntry level =
      { t with
        st := setIntMask t.st (BitVec.ofNat 4 (level - 1))
        run := if t.run = .idleWaiting then .running else t.run
        cycles := t.cycles + baseCycles t.md .interrupt
        noIntCheck := true } := by
  rw [State.interruptEntry, h]
  by_cases hidle : t.run = .idleWaiting <;> simp only [setSt_run, hidle, if_true, if_false] <;> rfl

/-- The vector words are read first; the switch saves the interrupted context, whose ST keeps all but IM. -/
theorem interruptEntry_eq (u : State) (level : Nat) :
    let nwp := u.readWord (BitVec.ofNat 16 (4 * level))
    let npc := nwp.2.readWord (BitVec.ofNat 16 (4 * level) + 2)
    let t := (saveContext (npc.2.setWp nwp.1) (evenAddr nwp.1) u.wp u.pc u.st).setPc npc.1
    u.interruptEntry level =
      { t with
        st := setIntMask u.st (BitVec.ofNat 4 (level - 1))
        run := if u.run = .idleWaiting then .running else u.run
        cycles := t.cycles + baseCycles u.md .interrupt
        noIntCheck := true } := by
  intro nwp npc t
  have hswitch : npc.2.contextSwitch nwp.1 npc.1 = t := by
    rw [contextSwitch_eq]
    simp [t, npc, nwp]
  have hst : t.st = u.st := by simp [t, npc, nwp]
  have hrun : t.run = u.run := by simp [t, npc, nwp, saveContext]
  have hmd : t.md = u.md := by simp [t, npc, nwp]
  rw [interruptEntry_of_contextSwitch hswitch, hst, hrun, hmd]

/-- Settles O29: a level that IM permits is at most 15, so that `level - 1` fits IM's four bits. -/
theorem interruptCheck : Obligations.InterruptCheck := by
  intro s
  refine ⟨interruptCheck_of_suppressed, fun h => ⟨fun hnone => ?quiet, fun hreq hlevel => ?taken⟩⟩
  case quiet =>
    rw [interruptCheck_eq h, if_neg (by omega)]
    rfl
  case taken =>
    have him : (BitVec.ofNat 4 (s.md.cpuIntLevel - 1)).toNat = s.md.cpuIntLevel - 1 := by
      rw [BitVec.toNat_ofNat]
      omega
    refine ⟨setIntMask s.st (BitVec.ofNat 4 (s.md.cpuIntLevel - 1)), ?_, ?_⟩
    · have hst := stIs_setIntMask s.st (BitVec.ofNat 4 (s.md.cpuIntLevel - 1))
      rwa [him] at hst
    · rw [interruptCheck_eq h, if_pos ⟨hreq, hlevel⟩, interruptEntry_eq]
      rfl

end Sys2Proof.Claims
end

section
/-! PROOFS. Bytes against instructions (20_memory.md R101, 30_encoding.md R170): the encoder's two bytes join to its word again,
and the words that the spec writes out. -/

namespace Sys2Proof.Laws

open Sys2Proof.Machine

theorem decode_wordBytes (w : Word) (rest : List Byte) : decode (wordBytes w ++ rest) = .ok (decodeWord w, rest) := by
  have hjoin : w.extractLsb' 8 8 ++ w.extractLsb' 0 8 = w := joinBytes_hi_lo w
  simp only [wordBytes, List.cons_append, List.nil_append, decode, hjoin]

theorem encodeBytes_eq_wordBytes (i : Instr) : encodeBytes i = wordBytes (encodeWord i) := by
  simp [encodeBytes, encode]

/-- Settles O1: the first two bytes are the encoder's word, of which the decoder is the inverse on well-formed instructions. -/
theorem decodeEncode : Obligations.DecodeEncode := by
  intro i rest hwf
  rw [encodeBytes_eq_wordBytes, decode_wordBytes, decodeWord_encodeWord hwf]

/-- Settles O4: seventeen closed words, each evaluated. -/
theorem sampleWords : Obligations.SampleWords := by
  unfold Obligations.SampleWords
  decide

end Sys2Proof.Laws
end

section
/-! PROOFS. What every instruction keeps of the invariants (Safety.lean), and that every instruction answers a next state
(60_exceptions.md R401): the execution frames one instruction at a time, and X by induction over the words of a step. -/

namespace Sys2Proof.Machine

/-- A next state is answered, and it has `P`. -/
def NextWith (P : State → Prop) (o : Host.Outcome State Fault Refusal) : Prop := ∃ t, o = .next t ∧ P t

theorem NextWith.of_eq {P : State → Prop} {o : Host.Outcome State Fault Refusal} (h : NextWith P o) {t : State}
    (ho : o = .next t) : P t := by
  obtain ⟨u, hu, hP⟩ := h
  rw [ho] at hu
  cases hu
  exact hP

theorem NextWith.mono {P Q : State → Prop} {o : Host.Outcome State Fault Refusal} (h : NextWith P o)
    (hPQ : ∀ t, P t → Q t) : NextWith Q o := by
  obtain ⟨t, ho, hP⟩ := h
  exact ⟨t, ho, hPQ t hP⟩

/-! ## The instructions with two cases -/

theorem nextWith_ldcr {P : State → Prop} {gs : GA} {c : BitVec 4} {s : State}
    (hbyte : cruCount c ≤ 8 → ∀ v : Byte × State, v = s.sourceByte gs →
      let t := v.2.cruBase.2.cruWriteBits v.2.cruBase.1 (zextByte v.1) 0 (cruCount c)
      P ((t.setSt (opFlag v.1 (lae v.1 t.st))).pay (.ldcr gs c) .plain))
    (hword : ¬ cruCount c ≤ 8 → ∀ v : Word × State, v = s.sourceWord gs →
      let t := v.2.cruBase.2.cruWriteBits v.2.cruBase.1 v.1 0 (cruCount c)
      P ((t.setSt (lae v.1 t.st)).pay (.ldcr gs c) .plain)) : NextWith P (execLdcr gs c s) := by
  rw [execLdcr]
  split
  case isTrue hc => exact ⟨_, rfl, hbyte hc _ rfl⟩
  case isFalse hc => exact ⟨_, rfl, hword hc _ rfl⟩

theorem nextWith_stcr {P : State → Prop} {gd : GA} {c : BitVec 4} {s : State}
    (hbyte : cruCount c ≤ 8 → ∀ a : Word × State, a = s.ea gd .byte →
      let r := a.2.cruBase.2.cruReadBits a.2.cruBase.1 0 0 (cruCount c)
      P (((r.2.setSt (opFlag (loByte r.1) (lae (loByte r.1) r.2.st))).writeByte a.1 (loByte r.1)).pay (.stcr gd c) .plain))
    (hword : ¬ cruCount c ≤ 8 → ∀ a : Word × State, a = s.ea gd .word →
      let r := a.2.cruBase.2.cruReadBits a.2.cruBase.1 0 0 (cruCount c)
      P (((r.2.setSt (lae r.1 r.2.st)).writeWord a.1 r.1).pay (.stcr gd c) .plain)) : NextWith P (execStcr gd c s) := by
  rw [execStcr]
  split
  case isTrue hc => exact ⟨_, rfl, hbyte hc _ rfl⟩
  case isFalse hc => exact ⟨_, rfl, hword hc _ rfl⟩

theorem nextWith_div {P : State → Prop} {gs : GA} {d : Reg} {s : State}
    (hoverflow : ∀ v hi : Word × State, v = s.sourceWord gs → hi = v.2.readReg d.toNat → v.1 ≤ hi.1 →
      P ((hi.2.setSt (setBit hi.2.st bitOv true)).pay (.div gs d) .overflow))
    (hdivided : ∀ v hi : Word × State, v = s.sourceWord gs → hi = v.2.readReg d.toNat → ¬ v.1 ≤ hi.1 →
      ∀ (q r : Word) (o : CostOutcome),
      let t := ((hi.2.readReg (d.toNat + 1)).2.writeReg d.toNat q).writeReg (d.toNat + 1) r
      P ((t.setSt (setBit t.st bitOv false)).pay (.div gs d) o)) : NextWith P (execDiv gs d s) := by
  rw [execDiv]
  dsimp only
  split
  case isTrue hle => exact ⟨_, rfl, hoverflow _ _ rfl rfl hle⟩
  case isFalse hle => exact ⟨_, rfl, hdivided _ _ rfl rfl hle _ _ _⟩

theorem nextWith_abs {P : State → Prop} {g : GA} {s : State}
    (h : ∀ (v : Word × State) (t : State), v = (s.ea g .word).2.readWord (s.ea g .word).1 →
      t = v.2.setSt (setBit (setBit (lae v.1 v.2.st) bitC false) bitOv (v.1 == 0x8000#16)) →
      (v.1.msb = true → P ((t.writeWord (s.ea g .word).1 (0#16 - v.1)).pay (.abs g) .negative)) ∧
      P (t.pay (.abs g) .nonNegative)) :
    NextWith P (execAbs g s) := by
  rw [execAbs]
  split
  case isTrue hneg => exact ⟨_, rfl, (h _ _ rfl rfl).1 hneg⟩
  case isFalse => exact ⟨_, rfl, (h _ _ rfl rfl).2⟩

/-! ## The invariants -/

/-- A flag function may be applied to the ST that stands: it sets no reserved bit. -/
theorem State.Inv.flags {s : State} (h : s.Inv) {v : Word} (hv : s.st &&& 0x01F0 = 0 → v &&& 0x01F0 = 0) :
    (s.setSt v).Inv := h.setSt (hv h.stReserved)

/-- What X executes keeps the invariants: every frame does, and no flag function sets a reserved bit. -/
theorem execPlain_inv {s : State} (h : s.Inv) (i : Instr) : NextWith State.Inv (execPlain i s) := by
  cases i with
  | a gs gd => exact ⟨_, rfl, (h.dualModifyWord _ _ _ fun _ _ _ => reserved_addFlags).pay _ _⟩
  | s gs gd => exact ⟨_, rfl, (h.dualModifyWord _ _ _ fun _ _ _ => reserved_subFlags).pay _ _⟩
  | soc gs gd | szc gs gd => exact ⟨_, rfl, (h.dualModifyWord _ _ _ fun _ _ _ => reserved_lae).pay _ _⟩
  | ab gs gd =>
    exact ⟨_, rfl, (h.dualModifyByte _ _ _ fun _ _ _ hst => reserved_opFlag (reserved_addFlags hst)).pay _ _⟩
  | sb gs gd =>
    exact ⟨_, rfl, (h.dualModifyByte _ _ _ fun _ _ _ hst => reserved_opFlag (reserved_subFlags hst)).pay _ _⟩
  | socb gs gd | szcb gs gd =>
    exact ⟨_, rfl, (h.dualModifyByte _ _ _ fun _ _ _ hst => reserved_opFlag (reserved_lae hst)).pay _ _⟩
  | c gs gd => exact ⟨_, rfl, (h.dualCompareWord _ _ _ fun _ _ _ => reserved_cmpFlags).pay _ _⟩
  | cb gs gd =>
    exact ⟨_, rfl, (h.dualCompareByte _ _ _ fun _ _ _ hst => reserved_opFlag (reserved_cmpFlags hst)).pay _ _⟩
  | mov gs gd => exact ⟨_, rfl, (h.dualMoveWord _ _ _ fun _ _ => reserved_lae).pay _ _⟩
  | movb gs gd => exact ⟨_, rfl, (h.dualMoveByte _ _ _ fun _ _ hst => reserved_opFlag (reserved_lae hst)).pay _ _⟩
  | jmp _ | jlt _ | jle _ | jeq _ | jhe _ | jgt _ | jne _ | jnc _ | joc _ | jno _ | jl _ | jh _ | jop _ =>
    exact ⟨_, rfl, h.jump _ _ _⟩
  | sbo _ | sbz _ => exact ⟨_, rfl, ((h.cruBitAddr _).cruWrite _ _).pay _ _⟩
  | tb _ => exact ⟨_, rfl, (((h.cruBitAddr _).cruRead _).flags reserved_eqFlag).pay _ _⟩
  | coc _ _ | czc _ _ => exact ⟨_, rfl, (h.registerTest _ _ _ fun _ _ _ => reserved_eqFlag).pay _ _⟩
  | xor gs d => exact ⟨_, rfl, ((((h.sourceWord gs).readReg _).flags reserved_lae).writeReg _ _).pay _ _⟩
  | xop gs _ =>
    exact ⟨_, rfl, ((((((h.ea gs .word).readVector _).contextSwitch _ _).writeReg _ _).flags
      fun hst => reserved_setBit hst (by decide)).setNoIntCheck true).pay _ _⟩
  | mpy gs d => exact ⟨_, rfl, ((((h.sourceWord gs).readReg _).writeReg _ _).writeReg _ _).pay _ _⟩
  | div gs d =>
    refine nextWith_div (fun v hi hv hhi _ => ?_) fun v hi hv hhi _ q r o => ?_
    · subst hv hhi
      exact (((h.sourceWord gs).readReg _).flags fun hst => reserved_setBit hst (by decide)).pay _ _
    · subst hv hhi
      exact ((((((h.sourceWord gs).readReg _).readReg _).writeReg _ _).writeReg _ _).flags
        fun hst => reserved_setBit hst (by decide)).pay _ _
  | ldcr gs c =>
    refine nextWith_ldcr (fun _ v hv => ?_) fun _ v hv => ?_
    · subst hv
      exact (((h.sourceByte gs).cruBase.cruWriteBits _ _ _ _).flags fun hst => reserved_opFlag (reserved_lae hst)).pay _ _
    · subst hv
      exact (((h.sourceWord gs).cruBase.cruWriteBits _ _ _ _).flags reserved_lae).pay _ _
  | stcr gd c =>
    refine nextWith_stcr (fun _ a ha => ?_) fun _ a ha => ?_
    · subst ha
      exact ((((h.ea gd .byte).cruBase.cruReadBits _ _ _ _).flags
        fun hst => reserved_opFlag (reserved_lae hst)).writeByte _ _).pay _ _
    · subst ha
      exact ((((h.ea gd .word).cruBase.cruReadBits _ _ _ _).flags reserved_lae).writeWord _ _).pay _ _
  | sra w c | srl w c | src w c =>
    exact ⟨_, rfl, h.shift _ _ _ _ fun _ _ _ hst => reserved_lae (reserved_setBit hst (by decide))⟩
  | sla w c =>
    exact ⟨_, rfl, h.shift _ _ _ _ fun _ _ _ hst =>
      reserved_lae (reserved_setBit (reserved_setBit hst (by decide)) (by decide))⟩
  | blwp g =>
    exact ⟨_, rfl, ((((h.ea g .word).readVector _).contextSwitch _ _).setNoIntCheck true).pay _ _⟩
  | b g => exact ⟨_, rfl, ((h.ea g .word).setPc _).pay _ _⟩
  | x g => exact ⟨_, rfl, h⟩
  | clr g | seto g => exact ⟨_, rfl, (h.singleSet _ _).pay _ _⟩
  | neg g | dec g | dect g => exact ⟨_, rfl, (h.singleModify _ _ fun _ _ => reserved_subFlags).pay _ _⟩
  | inc g | inct g => exact ⟨_, rfl, (h.singleModify _ _ fun _ _ => reserved_addFlags).pay _ _⟩
  | inv g => exact ⟨_, rfl, (h.singleModify _ _ fun _ _ => reserved_lae).pay _ _⟩
  | swpb g => exact ⟨_, rfl, (h.singleModify _ _ fun _ _ hst => hst).pay _ _⟩
  | bl g => exact ⟨_, rfl, (((h.ea g .word).writeReg _ _).setPc _).pay _ _⟩
  | abs g =>
    refine nextWith_abs fun v t hv ht => ?_
    have hti : t.Inv := by
      rw [ht, hv]
      exact ((h.ea g .word).readWord _).flags
        fun hst => reserved_setBit (reserved_setBit (reserved_lae hst) (by decide)) (by decide)
    exact ⟨fun _ => (hti.writeWord _ _).pay _ _, hti.pay _ _⟩
  | li w => exact ⟨_, rfl, ((h.fetch.flags reserved_lae).writeReg _ _).pay _ _⟩
  | ai w => exact ⟨_, rfl, (h.immediateModify _ _ fun _ _ _ => reserved_addFlags).pay _ _⟩
  | andi w | ori w => exact ⟨_, rfl, (h.immediateModify _ _ fun _ _ _ => reserved_lae).pay _ _⟩
  | ci w => exact ⟨_, rfl, ((h.fetch.readReg _).flags reserved_cmpFlags).pay _ _⟩
  | stwp w | stst w => exact ⟨_, rfl, (h.writeReg _ _).pay _ _⟩
  | lwpi => exact ⟨_, rfl, (h.fetch.setWp _).pay _ _⟩
  | limi => exact ⟨_, rfl, (h.fetch.flags reserved_setIntMask).pay _ _⟩
  | idle => exact ⟨_, rfl, (h.setRun (v := .idleWaiting) nofun).pay _ _⟩
  | rset => exact ⟨_, rfl, ((h.flags reserved_setIntMask).flagExternal _).pay _ _⟩
  | rtwp => exact ⟨_, rfl, h.returnContext.pay _ _⟩
  | ckon | ckof | lrex => exact ⟨_, rfl, (h.flagExternal _).pay _ _⟩
  | illegal0000 _ | illegal0320 _ | illegal0780 _ | illegal0C00 _ => exact ⟨_, rfl, h.invalidOpcode _⟩

/-! ## X, and every instruction -/

/-- A chain fetches words, executes one, or stands open: what these keep, it keeps. -/
theorem nextWith_runChain {P Q : State → Prop} (hfetch : ∀ s g, P s → P (State.xFetch s g).2)
    (hexec : ∀ s i, P s → NextWith Q (execPlain i s)) (hpay : ∀ s k, Q s → Q (s.addCycles k))
    (hopen : ∀ s c, P s → Q (s.setXChain (some c))) {s : State} (h : P s) (n : Nat) (m : XMark) (w : Word) (owed : Nat) :
    NextWith Q (runChain n m w owed s) := by
  induction n generalizing w owed s with
  | zero => exact ⟨_, rfl, hopen s _ h⟩
  | succ n ih =>
    by_cases hx : ∃ g, decodeWord w = .x g
    · obtain ⟨g, hg⟩ := hx
      rw [runChain_x hg]
      exact ih (hfetch s g h) _ _
    · obtain ⟨t, ht, hQ⟩ := hexec s (decodeWord w) h
      exact ⟨_, runChain_end (not_exists.mp hx) n m owed ht, hpay t owed hQ⟩

/-- An instruction is X, which runs a chain, or has the meaning that X executes. -/
theorem nextWith_exec {P Q : State → Prop} (hfetch : ∀ s g, P s → P (State.xFetch s g).2)
    (hexec : ∀ s i, P s → NextWith Q (execPlain i s)) (hpay : ∀ s k, Q s → Q (s.addCycles k))
    (hopen : ∀ s c, P s → Q (s.setXChain (some c))) {s : State} (h : P s) (i : Instr) : NextWith Q (exec i s) := by
  by_cases hx : ∃ g, i = .x g
  · obtain ⟨g, rfl⟩ := hx
    exact nextWith_runChain hfetch hexec hpay hopen (hfetch s g h) xChunk XMark.fresh _ _
  · rw [exec_eq_execPlain i s (not_exists.mp hx)]
    exact hexec s i h

theorem exec_inv {s : State} (h : s.Inv) (i : Instr) : NextWith State.Inv (exec i s) :=
  nextWith_exec (fun _ g hs => hs.sourceWord g) (fun _ i hs => execPlain_inv hs i) (fun _ k hs => hs.addCycles k)
    (fun _ c hs => hs.setXChain (some c)) h i

theorem resumeChain_inv {s : State} (h : s.Inv) (c : XChain) : NextWith State.Inv (resumeChain c s) :=
  nextWith_runChain (fun _ g hs => hs.sourceWord g) (fun _ i hs => execPlain_inv hs i) (fun _ k hs => hs.addCycles k)
    (fun _ c hs => hs.setXChain (some c)) (h.setXChain none) xChunk c.mark c.word c.owed

/-! ## Completion (60_exceptions.md R401) -/

theorem execPlain_completes (i : Instr) (s : State) : NextWith (fun _ => True) (execPlain i s) := by
  cases i with
  | div gs d => exact nextWith_div (fun _ _ _ _ _ => trivial) fun _ _ _ _ _ _ _ _ => trivial
  | ldcr gs c => exact nextWith_ldcr (fun _ _ _ => trivial) fun _ _ _ => trivial
  | stcr gd c => exact nextWith_stcr (fun _ _ _ => trivial) fun _ _ _ => trivial
  | abs g => exact nextWith_abs fun _ _ _ _ => ⟨fun _ => trivial, trivial⟩
  | _ => exact ⟨_, rfl, trivial⟩

theorem runChain_completes (n : Nat) (m : XMark) (w : Word) (owed : Nat) (s : State) :
    NextWith (fun _ => True) (runChain n m w owed s) :=
  nextWith_runChain (P := fun _ => True) (fun _ _ => id) (fun s i _ => execPlain_completes i s) (fun _ _ => id)
    (fun _ _ => id) trivial n m w owed

theorem exec_completes (i : Instr) (s : State) : ∃ t, exec i s = .next t := by
  obtain ⟨t, ht, -⟩ := nextWith_exec (P := fun _ => True) (fun _ _ => id) (fun s i _ => execPlain_completes i s)
    (fun _ _ => id) (fun _ _ => id) trivial i
  exact ⟨t, ht⟩

theorem NextWith.afterExec {P Q : State → Prop} {o : Host.Outcome State Fault Refusal} (h : NextWith P o)
    (hend : ∀ t, P t → Q t.endStep) : NextWith Q (afterExec o) := by
  obtain ⟨t, rfl, hP⟩ := h
  exact ⟨_, rfl, hend t hP⟩

/-- A turn of the loop, by what the loop does (R478). -/
theorem nextWith_turn {P : State → Prop} {s : State} (hstop : P s.takeStop) (hbreak : P (s.endBurst .breakpoint))
    (hidle : P s.clearFirst.idleStep)
    (hexec : let f := s.clearFirst.fetchOpcode; NextWith P (afterExec (exec (decodeWord f.1) f.2))) :
    NextWith P s.turn := by
  rw [State.turn]
  split
  · exact ⟨_, rfl, hstop⟩
  · exact ⟨_, rfl, hbreak⟩
  · exact ⟨_, rfl, hidle⟩
  · exact hexec

/-- A step, by what stands next: a host call, an open chain, or a turn of the loop (R478, R491). -/
theorem nextWith_step {P : State → Prop} {s : State}
    (hserve : ∀ call rest, s.pendingCall = some (call, rest) → P (s.serve call rest))
    (hchain : ∀ c, s.xChain = some c → NextWith P (afterExec (resumeChain c s)))
    (hturn : NextWith P s.enterBurst.turn) : NextWith P (step s) := by
  rw [step]
  split
  next p hp => exact ⟨_, rfl, hserve p.1 p.2 hp⟩
  next =>
    split
    next c hc => exact hchain c hc
    next => exact hturn

theorem step_completes (s : State) : NextWith (fun _ => True) (step s) := by
  have hafter {o : Host.Outcome State Fault Refusal} (h : NextWith (fun _ => True) o) :
      NextWith (fun _ => True) (afterExec o) := h.afterExec fun _ => id
  refine nextWith_step (fun _ _ _ => trivial) (fun c _ => hafter (runChain_completes ..)) ?_
  refine nextWith_turn trivial trivial trivial (hafter ?_)
  obtain ⟨t, ht⟩ := exec_completes (decodeWord s.enterBurst.clearFirst.fetchOpcode.1)
    s.enterBurst.clearFirst.fetchOpcode.2
  exact ⟨t, ht, trivial⟩

/-- Settles O6: no meaning of an instruction and no part of a step has another outcome. -/
theorem everyStepCompletes : Obligations.EveryStepCompletes :=
  ⟨exec_completes, fun s => (step_completes s).imp fun _ h => h.1⟩

end Sys2Proof.Machine
end

section
/-! PROOFS. Every step keeps the machine's invariants (Safety.lean): the scheduler's own updates, the host's calls, and then the
three things a step can be. -/

namespace Sys2Proof.Machine

/-! ## The run loop -/

theorem State.Inv.endBurst {s : State} (h : s.Inv) (status : BurstStatus) : (s.endBurst status).Inv := by
  rw [State.endBurst]
  exact h.setSched (fun hb => Bool.noConfusion hb) fun _ => rfl

theorem State.Inv.frameTest {s : State} (h : s.Inv) : s.frameTest.Inv := by
  rw [State.frameTest]
  split
  · exact (h.setIo (h.ok.raise 2)).endBurst .frame
  · exact h

theorem State.Inv.endStep {s : State} (h : s.Inv) : s.endStep.Inv := by
  rw [State.endStep]
  split
  · exact h
  · exact h.interruptCheck.frameTest

theorem State.Inv.idleStep {s : State} (h : s.Inv) : s.idleStep.Inv := (h.addCycles _).interruptCheck.frameTest

/-- The burst is closed with the stop, so that the machine may be Halted (R474). -/
theorem takeStop_eq (s : State) :
    s.takeStop =
      (s.setSched { s.sched with stopReq := false, inBurst := false, first := false, status := some .halt }).setRun
        .halted := rfl

theorem State.Inv.takeStop {s : State} (h : s.Inv) : s.takeStop.Inv := by
  rw [takeStop_eq]
  exact (h.setSched (fun hb => Bool.noConfusion hb) fun _ => rfl).setRun fun _ => rfl

theorem beginBurst_eq (s : State) :
    s.beginBurst =
      (s.setRun (if s.run = .halted then .running else s.run)).setSched
        { s.sched with burstStart := s.cycles, inBurst := true, first := true } := by
  rw [State.beginBurst]
  split <;> rfl

theorem State.Inv.beginBurst {s : State} (h : s.Inv) : s.beginBurst.Inv := by
  have hrun : (if s.run = .halted then .running else s.run) ≠ RunState.halted := by
    split
    · exact nofun
    · assumption
  rw [beginBurst_eq]
  exact (h.setRun fun hh => absurd hh hrun).setSched (fun _ => le_rfl) fun hh => absurd hh hrun

theorem State.Inv.enterBurst {s : State} (h : s.Inv) : s.enterBurst.Inv := by
  rw [State.enterBurst]
  split
  · exact h
  · exact h.beginBurst

theorem State.Inv.clearFirst {s : State} (h : s.Inv) : s.clearFirst.Inv := h.setSched_same rfl rfl

theorem NextWith.inv_afterExec {o : Host.Outcome State Fault Refusal} (h : NextWith State.Inv o) :
    NextWith State.Inv (Sys2Proof.Machine.afterExec o) := h.afterExec fun _ => State.Inv.endStep

theorem turn_inv {s : State} (h : s.Inv) : NextWith State.Inv s.turn :=
  nextWith_turn h.takeStop (h.endBurst .breakpoint) h.clearFirst.idleStep
    (exec_inv (h.clearFirst.setInstPc _).fetch _).inv_afterExec

/-! ## The host's calls -/

theorem State.Inv.answer {s : State} (h : s.Inv) (r : HostReply) : (s.answer r).Inv := h.setSched_same rfl rfl

/-- The cycles of a host's memory access are taken back (R490): no data-bus access moves the timer's sample or the burst's
start, so the invariants that bound them by the cycle count still hold. -/
theorem State.Inv.setCycles_back {s t : State} (h : s.Inv) (ht : t.Inv) (hio : s.io.SameLines t.io)
    (hsched : t.sched = s.sched) : (t.setCycles s.cycles).Inv :=
  { ht with
    timerBase := by simpa [hio.tBase] using h.timerBase
    timerDelta := by simpa [hio.tBase, hio.tDelta] using h.timerDelta
    burstStarted := by simpa [hsched] using h.burstStarted }

theorem State.Inv.hostRead {s : State} (h : s.Inv) (a : Word) (n : Nat) : (s.hostRead a n).Inv := by
  rw [State.hostRead]
  split
  · exact (h.setCycles_back (h.readByte a) (sameLines_readByte s a) (readByte_sched s a)).answer _
  · split
    · exact (h.setCycles_back (h.readWord a) (sameLines_readWord s a) (readWord_sched s a)).answer _
    · exact h.answer _

theorem State.Inv.hostWrite {s : State} (h : s.Inv) (a : Word) (n : Nat) (v : Word) : (s.hostWrite a n v).Inv := by
  rw [State.hostWrite]
  split
  · exact (h.setCycles_back (h.writeByte a _) (sameLines_writeByte s a _) (writeByte_sched s a _)).answer _
  · split
    · exact (h.setCycles_back (h.writeWord a v) (sameLines_writeWord s a v) (writeWord_sched s a v)).answer _
    · exact h.answer _

theorem State.Inv.hostReadCru {s : State} (h : s.Inv) (a : CruAddr) (c : Nat) : (s.hostReadCru a c).Inv := by
  rw [State.hostReadCru]
  split
  · exact (h.cruReadBits a 0 0 c).answer _
  · exact h.answer _

theorem State.Inv.hostWriteCru {s : State} (h : s.Inv) (a : CruAddr) (c : Nat) (v : Word) : (s.hostWriteCru a c v).Inv := by
  rw [State.hostWriteCru]
  split
  · exact (h.cruWriteBits a v 0 c).answer _
  · exact h.answer _

/-! ## Reset (10_state.md R68) -/

theorem Mapper.resetOf_bank (md : Descriptor) (r : Fin 16) : (Mapper.resetOf md).bank[r] = r.val % md.banks := by
  fin_cases r <;> rfl

theorem reset_controller_ok : Controller.reset.Ok 0 := by constructor <;> decide

theorem resetFields_inv {s : State} (h : s.Inv) {md : Descriptor} (hmd : 16 ≤ md.banks) : (s.resetFields md).Inv where
  pcEven := BitVec.getLsbD_zero
  wpEven := BitVec.getLsbD_zero
  stReserved := BitVec.zero_and
  intCount := reset_controller_ok.intCount
  reqPins := reset_controller_ok.reqPins
  enPins := reset_controller_ok.enPins
  timerBase := reset_controller_ok.timerBase
  timerDelta := reset_controller_ok.timerDelta
  enoughBanks := hmd
  bankBound r := by
    rw [show (s.resetFields md).mapper = Mapper.resetOf md from rfl, Mapper.resetOf_bank]
    exact Nat.mod_lt _ (by simpa [State.resetFields] using by omega)
  bankIdentity _ r _ := Mapper.resetOf_bank md r
  windowTag := nofun
  tagsWf := sparseWf_nil
  poolWf := by
    show (if md.banks = s.md.banks then s.pool else []).wf
    split
    · exact h.poolWf
    · exact sparseWf_nil
  scratchWf := h.scratchWf
  poolBound := by
    show ∀ p ∈ (if md.banks = s.md.banks then s.pool else []), p.1 < md.banks * 4096
    split
    case isTrue hb => rw [hb]; exact h.poolBound
    case isFalse => simp
  scratchBound := h.scratchBound
  burstStarted := nofun
  haltedIdle _ := rfl

/-- The cycles of the vector's reads are discarded, and nothing else has been going on. -/
theorem hostReset_inv {s : State} (h : s.Inv) {md : Descriptor} (hmd : 16 ≤ md.banks) : (s.hostReset md).Inv := by
  have hr := resetFields_inv h hmd
  have hio := (sameLines_readWord (s.resetFields md) 0).trans (sameLines_readWord ((s.resetFields md).readWord 0).2 2)
  have hvec := hr.setCycles_back ((((hr.readWord 0).readWord 2).setWp ((s.resetFields md).readWord 0).1).setPc
    (((s.resetFields md).readWord 0).2.readWord 2).1) hio (by simp)
  exact hvec

/-- Settles O31: `State.reset` is the state of a machine just made, whose fields are all closed. -/
theorem resetHasInvariants : Obligations.ResetHasInvariants := by
  unfold Obligations.ResetHasInvariants
  constructor <;> decide

/-! ## Loading an image (70_reset_and_hazards.md R495, R497) -/

theorem controllerOk_iff (c : Controller) (now : Nat) : controllerOk c now = true ↔ c.Ok now := by
  simp only [controllerOk, Bool.and_eq_true, decide_eq_true_eq, beq_iff_eq]
  constructor
  · rintro ⟨⟨⟨⟨hcount, hreq⟩, hen⟩, hbase⟩, hdelta⟩
    exact ⟨hcount, hreq, hen, hbase, hdelta⟩
  · rintro ⟨hcount, hreq, hen, hbase, hdelta⟩
    exact ⟨⟨⟨⟨hcount, hreq⟩, hen⟩, hbase⟩, hdelta⟩

theorem mapperOk_iff (m : Mapper) (md : Descriptor) : Machine.mapperOk m md = true ↔ m.Ok md := by
  have hbound : m.bank.all (fun b => decide (b < md.banks)) = true ↔ ∀ r : Fin 16, m.bank[r] < md.banks := by
    simp [Vector.all_eq_true, Fin.forall_iff]
  have hident : (m.active || md.swappable.all fun r => decide (m.bank[r] = r.val % md.banks)) = true ↔
      (m.active = false → ∀ r ∈ md.swappable, m.bank[r] = r.val % md.banks) := by
    cases m.active <;> simp
  rw [Machine.mapperOk, Bool.and_eq_true, hbound, hident]
  exact ⟨fun ⟨hb, hi⟩ => ⟨hb, hi⟩, fun ⟨hb, hi⟩ => ⟨hb, hi⟩⟩

theorem imageOk_iff (md : Descriptor) (i : SaveImage) :
    imageOk md i = true ↔
      i.pc.getLsbD 0 = false ∧ i.wp.getLsbD 0 = false ∧ i.st &&& 0x01F0 = 0 ∧ i.io.Ok i.cycles ∧ i.mapper.Ok md ∧
      i.scratch.length = 256 := by
  simp only [imageOk, Bool.and_eq_true, controllerOk_iff, mapperOk_iff, beq_iff_eq, decide_eq_true_eq, and_assoc]

theorem tagsFor_wf (md : Descriptor) (visible : Bool) : sparseWf (regionInit md) (tagsFor md visible) := by
  rw [tagsFor]
  split
  · exact sparseSet_wf _ _ (sparseSet_wf _ _ sparseWf_nil)
  · exact sparseWf_nil

/-- The table after a load: `REGION_MAP_INIT` but for the register window while it is visible (R495). -/
theorem sparseGet_tagsFor (md : Descriptor) (visible : Bool) (g : Nat) :
    sparseGet (regionInit md) (tagsFor md visible) g =
      if visible = true ∧ (g = 0x400 ∨ g = 0x401) then .mapperRegs else regionInit md g := by
  cases visible
  · simp [tagsFor, sparseGet]
  · rw [tagsFor, if_pos rfl, sparseGet_set _ _ _ (sparseSet_wf _ _ sparseWf_nil), sparseGet_set _ _ _ sparseWf_nil]
    simp only [sparseGet, true_and]
    split_ifs <;> simp_all

theorem flatMap_word32Bytes_length (l : List Nat) : (l.flatMap word32Bytes).length = 4 * l.length := by
  induction l with
  | nil => rfl
  | cons w t ih =>
    rw [List.flatMap_cons, List.length_append, ih, List.length_cons]
    simp only [word32Bytes, List.length_cons, List.length_nil]
    omega

/-- A load between bursts: the image's parts were tested, and nothing of a burst depends on the cycle count they bring. -/
theorem restore_inv {s : State} (h : s.Inv) (hburst : s.sched.inBurst = false) {i : SaveImage} {words : List Nat}
    (hlen : words.length = poolWordCount s.md) (hi : imageOk s.md i = true) : (s.restore i words).Inv := by
  obtain ⟨hpc, hwp, hst, hio, hmapper, hscratch⟩ := (imageOk_iff s.md i).mp hi
  exact
    { pcEven := hpc
      wpEven := hwp
      stReserved := hst
      intCount := hio.intCount
      reqPins := hio.reqPins
      enPins := hio.enPins
      timerBase := hio.timerBase
      timerDelta := hio.timerDelta
      enoughBanks := h.enoughBanks
      bankBound := hmapper.bankBound
      bankIdentity := hmapper.bankIdentity
      windowTag := fun hv => by
        have hv' : i.mapper.visible = true := hv
        constructor <;> exact (sparseGet_tagsFor ..).trans (by simp [hv'])
      tagsWf := tagsFor_wf _ _
      poolWf := Memory.wf_ofBytes _ _
      scratchWf := Memory.wf_ofBytes _ _
      poolBound := fun p hp => by
        have hp' := (Memory.mem_ofBytes hp).2.1
        rw [flatMap_word32Bytes_length, hlen, poolWordCount] at hp'
        show p.1 < s.md.banks * 4096
        omega
      scratchBound := fun p hp => by
        have hp' := (Memory.mem_ofBytes hp).2.1
        rw [hscratch] at hp'
        omega
      burstStarted := fun hb => absurd (hburst.symm.trans hb) nofun
      haltedIdle := fun _ => hburst }

/-- What a load answers: the restored state where every test passes, and otherwise an error class and the state unchanged. -/
theorem loadState_cases (s : State) (i : SaveImage) (ioOk : Bool) :
    (∃ words, ioOk = true ∧ i.version = s.md.saveVersion ∧ i.banks = s.md.banks ∧ rleDecode i.pool = some words ∧
      words.length = poolWordCount s.md ∧ imageOk s.md i = true ∧ s.loadState i ioOk = (.done, s.restore i words)) ∨
    (ioOk = true ∧ i.version ≠ s.md.saveVersion ∧ s.loadState i ioOk = (.failed .saveStateVersionMismatch, s)) ∨
    ((ioOk = true → i.version = s.md.saveVersion) ∧ s.loadState i ioOk = (.failed .saveStateIOFailure, s)) := by
  rw [State.loadState]
  split
  case isTrue hok => exact .inr (.inr ⟨fun h => by simp [h] at hok, rfl⟩)
  case isFalse hok =>
    have hok' : ioOk = true := by simpa using hok
    split
    case isTrue hv => exact .inr (.inl ⟨hok', hv, rfl⟩)
    case isFalse hv =>
      have hv' : i.version = s.md.saveVersion := not_not.mp hv
      split
      case isTrue => exact .inr (.inr ⟨fun _ => hv', rfl⟩)
      case isFalse hb =>
        split
        next => exact .inr (.inr ⟨fun _ => hv', rfl⟩)
        next words hw =>
          split
          case isTrue hall =>
            obtain ⟨hlen, -, himg⟩ := hall
            exact .inl ⟨words, hok', hv', not_not.mp hb, hw, hlen, himg, rfl⟩
          case isFalse => exact .inr (.inr ⟨fun _ => hv', rfl⟩)

theorem loadState_inv {s : State} (h : s.Inv) (hburst : s.sched.inBurst = false) (i : SaveImage) (ioOk : Bool) :
    (s.loadState i ioOk).2.Inv := by
  obtain ⟨words, -, -, -, -, hlen, himg, heq⟩ | ⟨-, -, heq⟩ | ⟨-, heq⟩ := loadState_cases s i ioOk
  · rw [heq]; exact restore_inv h hburst hlen himg
  · rw [heq]; exact h
  · rw [heq]; exact h

/-! ## A step -/

/-- A host call between bursts, or a reset at any time. -/
theorem State.Inv.hostCall {s : State} (h : s.Inv) (call : HostCall)
    (hburst : call.isReset = true ∨ s.sched.inBurst = false) : (s.hostCall call).Inv := by
  cases call with
  | reset md =>
    rw [State.hostCall]
    split
    case isTrue hok => exact (hostReset_inv h ((descriptorOk_iff md).mp hok).1).answer _
    case isFalse => exact h.answer _
  | runOneBurst => exact h.beginBurst
  | raiseInterrupt p => exact (h.setIo (h.ok.raise p)).answer _
  | clearInterrupt p => exact (h.setIo (h.ok.clear p)).answer _
  | readMemory a n => exact h.hostRead a n
  | writeMemory a n v => exact h.hostWrite a n v
  | readCru a c => exact h.hostReadCru a c
  | writeCru a c v => exact h.hostWriteCru a c v
  | stop => exact (h.setSched_same (v := { s.sched with stopReq := true }) rfl rfl).answer _
  | setBreakpoint bp => exact (h.setSched_same (v := { s.sched with bp := bp }) rfl rfl).answer _
  | saveState ioOk => exact h.answer _
  | loadState i ioOk => exact (loadState_inv h (hburst.resolve_left nofun) i ioOk).answer _
  | setKeys _ | setJoysticks _ _ => exact (h.setKbd _).answer _

/-- A halted machine is in no burst, so a machine that is not bursting has none under way. -/
theorem State.Inv.inBurst_of_not_bursting {s : State} (h : s.Inv) (hb : s.bursting = false) : s.sched.inBurst = false := by
  by_cases hrun : s.run = .halted
  · exact h.haltedIdle hrun
  · simpa [State.bursting, hrun] using hb

theorem State.Inv.serve {s : State} (h : s.Inv) {call : HostCall} {rest : List HostCall}
    (hp : s.pendingCall = some (call, rest)) : (s.serve call rest).Inv := by
  have hq : (s.setSched { s.sched with queue := rest }).Inv := h.setSched_same rfl rfl
  obtain ⟨-, ⟨-, hb⟩ | ⟨-, -, -, hreset⟩⟩ := pendingCall_spec hp
  · exact hq.hostCall call (.inr (h.inBurst_of_not_bursting hb))
  · exact hq.hostCall call (.inl hreset)

/-- Settles O30: a served call, the words of an open chain and a turn of the loop each keep the invariants. -/
theorem stepKeepsInvariants : Obligations.StepKeepsInvariants := by
  intro s t h ht
  exact (nextWith_step (fun _ _ hp => h.serve hp) (fun c _ => (resumeChain_inv h c).inv_afterExec)
    (turn_inv h.enterBurst)).of_eq ht

end Sys2Proof.Machine
end

section
/-! PROOFS. One turn of the run loop (70_reset_and_hazards.md R478 to R484): what the loop does next decides the step, and the
budget test ends it. -/

namespace Sys2Proof.Machine

/-! ## The budget test (R480) -/

theorem sameMem_setIo (s : State) (c : Controller) : s.SameMem (s.setIo c) := ⟨rfl, rfl, rfl, rfl, rfl, rfl⟩

theorem sameMem_setSched (s : State) (v : Scheduler) : s.SameMem (s.setSched v) := ⟨rfl, rfl, rfl, rfl, rfl, rfl⟩

theorem sameMem_setRun (s : State) (v : RunState) : s.SameMem (s.setRun v) := ⟨rfl, rfl, rfl, rfl, rfl, rfl⟩

theorem sameMem_setInstPc (s : State) (v : Word) : s.SameMem (s.setInstPc v) := ⟨rfl, rfl, rfl, rfl, rfl, rfl⟩

theorem sameMem_endBurst (s : State) (status : BurstStatus) : s.SameMem (s.endBurst status) := sameMem_setSched _ _

theorem frameTest_of_lt {s : State} (h : s.cycles - s.sched.burstStart < s.md.cyclesPerFrame) : s.frameTest = s := by
  rw [State.frameTest, if_neg (by omega)]

theorem frameTest_of_le {s : State} (h : s.md.cyclesPerFrame ≤ s.cycles - s.sched.burstStart) :
    s.frameTest = (s.setIo (s.io.raise 2)).endBurst .frame := by
  rw [State.frameTest, if_pos h]

/-- Settles O8: at the budget pin 2 is raised and the burst closed, and neither touches anything else. -/
theorem frameBoundary : Obligations.FrameBoundary := by
  intro s
  refine ⟨frameTest_of_lt, fun h => ?_⟩
  rw [frameTest_of_le h]
  refine ⟨rfl, ?raised, ?others, rfl, rfl, rfl, rfl, rfl, ?memory⟩
  case raised => exact (Controller.raise_req rfl 2).trans (by simp)
  case others => exact fun p hp => (Controller.raise_req rfl p).trans (by simp [hp])
  case memory => exact fun a => ((sameMem_setIo s _).trans (sameMem_endBurst _ .frame)).peek a

/-! ## What the loop does next (R478) -/

theorem loopTurn_of_stop {s : State} (h : s.sched.stopReq = true) : s.loopTurn = .stop := by
  rw [State.loopTurn, if_pos h]

theorem loopTurn_of_breakpoint {s : State} (hstop : s.sched.stopReq = false) (hrun : s.run = .running)
    (hfirst : s.sched.first = false) (hbp : s.atBreakpoint = true) : s.loopTurn = .breakpoint := by
  simp [State.loopTurn, hstop, hrun, hfirst, hbp]

theorem loopTurn_of_running {s : State} (hstop : s.sched.stopReq = false) (hrun : s.run = .running)
    (h : s.sched.first = true ∨ s.atBreakpoint = false) : s.loopTurn = .instruction := by
  obtain hfirst | hbp := h
  · simp [State.loopTurn, hstop, hrun, hfirst]
  · simp [State.loopTurn, hstop, hrun, hbp]

theorem loopTurn_of_idle {s : State} (hstop : s.sched.stopReq = false) (hrun : s.run = .idleWaiting) :
    s.loopTurn = .idle := by
  simp [State.loopTurn, hstop, hrun]

/-- With no call to serve and no chain open, a step is a turn of the loop. -/
theorem step_eq_turn {s : State} (hcall : s.pendingCall = none) (hchain : s.xChain = none) :
    step s = s.enterBurst.turn := by
  simp only [step, hcall, hchain]

theorem turn_of_stop {s : State} (h : s.loopTurn = .stop) : s.turn = .next s.takeStop := by
  simp only [State.turn, h]

theorem turn_of_breakpoint {s : State} (h : s.loopTurn = .breakpoint) : s.turn = .next (s.endBurst .breakpoint) := by
  simp only [State.turn, h]

theorem turn_of_idle {s : State} (h : s.loopTurn = .idle) : s.turn = .next s.clearFirst.idleStep := by
  simp only [State.turn, h]

/-- The word at PC is fetched, executed, and followed by the end-of-step tests. -/
theorem turn_of_instruction {s : State} (h : s.loopTurn = .instruction) :
    let f := s.clearFirst.fetchOpcode
    ∃ t, exec (decodeWord f.1) f.2 = .next t ∧ s.turn = .next t.endStep := by
  intro f
  obtain ⟨t, ht⟩ := exec_completes (decodeWord f.1) f.2
  refine ⟨t, ht, ?_⟩
  simp only [State.turn, h]
  exact congrArg afterExec ht

theorem endStep_eq (t : State) : t.endStep = if t.xChain.isSome then t else t.interruptCheck.frameTest := rfl

theorem bursting_iff (s : State) : s.bursting = true ↔ s.sched.inBurst = true ∧ s.run ≠ .halted := by
  simp [State.bursting]

theorem enterBurst_of_bursting {s : State} (hb : s.sched.inBurst = true) (hrun : s.run ≠ .halted) :
    s.enterBurst = s := by
  rw [State.enterBurst, if_pos ((bursting_iff s).mpr ⟨hb, hrun⟩)]

theorem enterBurst_of_not_bursting {s : State} (h : s.sched.inBurst = false ∨ s.run = .halted) :
    s.enterBurst = s.beginBurst := by
  have hb : ¬ s.bursting = true := by
    rw [bursting_iff]
    obtain hb | hrun := h
    · simp [hb]
    · simp [hrun]
  rw [State.enterBurst, if_neg hb]

/-- Settles O7: each clause is one outcome of `loopTurn`. -/
theorem runLoop : Obligations.RunLoop := by
  intro s0 hcall hchain s
  have hstep : step s0 = s.turn := step_eq_turn hcall hchain
  refine ⟨enterBurst_of_bursting, fun h => ?begins, fun hstop => ?stop, fun hstop hrun hfirst hbp => ?breakpoint,
    fun hstop hrun h => ?instruction, fun hstop hrun => ?idle⟩
  case begins => exact (enterBurst_of_not_bursting h).trans (beginBurst_eq s0)
  case stop =>
    rw [hstep, turn_of_stop (loopTurn_of_stop hstop), takeStop_eq]
    rfl
  case breakpoint =>
    rw [hstep, turn_of_breakpoint (loopTurn_of_breakpoint hstop hrun hfirst hbp)]
    rfl
  case instruction =>
    have hturn := loopTurn_of_running hstop hrun h
    obtain ⟨t, ht, hnext⟩ := turn_of_instruction hturn
    exact ⟨hturn, t, ht, hstep.trans (hnext.trans (congrArg _ (endStep_eq t)))⟩
  case idle =>
    rw [hstep, turn_of_idle (loopTurn_of_idle hstop hrun)]
    rfl

/-! ## The instruction at PC (40_operands.md R211) -/

theorem sameMem_enterBurst (s : State) : s.SameMem s.enterBurst := by
  rw [State.enterBurst]
  split
  · exact .refl s
  · rw [beginBurst_eq]
    exact (sameMem_setRun s _).trans (sameMem_setSched _ _)

@[simp] theorem enterBurst_pc (s : State) : s.enterBurst.pc = s.pc := by
  rw [State.enterBurst]
  split
  · rfl
  · rw [beginBurst_eq]
    rfl

theorem peekWord_of_peek {s : State} {e : Word} {hi lo : Byte} (hhi : s.peek e = some hi) (hlo : s.peek (e + 1) = some lo) :
    s.peekWord e = some (hi ++ lo) := by
  simp only [State.peekWord, hhi, hlo]
  rfl

/-- Settles O5: the burst's begin, the noted address and the closed `first` change no memory, so the fetch reads the bytes at
PC. -/
theorem stepRunsDecoded : Obligations.StepRunsDecoded := by
  intro s i hi lo hcall hchain hturn heven hhi hlo hdecode f
  have hword : decodeWord (hi ++ lo) = i := by
    rw [decode] at hdecode
    exact congrArg Prod.fst (Except.ok.inj hdecode)
  obtain ⟨t, ht, hnext⟩ := turn_of_instruction hturn
  have hmem : s.SameMem (s.enterBurst.clearFirst.setInstPc s.pc) :=
    (sameMem_enterBurst s).trans ((sameMem_setSched _ _).trans (sameMem_setInstPc _ _))
  have hpeek : (s.enterBurst.clearFirst.setInstPc s.pc).peekWord (evenAddr s.pc) = some (hi ++ lo) := by
    rw [hmem.peekWord, evenAddr_of_even heven]
    exact peekWord_of_peek hhi hlo
  have hfetch : s.enterBurst.clearFirst.fetchOpcode = (hi ++ lo, f) := by
    have hpc : s.enterBurst.clearFirst.pc = s.pc := enterBurst_pc s
    rw [State.fetchOpcode, hpc, State.fetch, setInstPc_pc, hpc, readWord_of_peek hpeek, evenAddr_of_even heven,
      hmem.tagAt, chargeBus_addCycles, hmem.md]
  rw [hfetch, hword] at ht
  exact ⟨hword ▸ Laws.decodeWord_wf _, t, ht, (step_eq_turn hcall hchain).trans (hnext.trans (congrArg _ (endStep_eq t)))⟩

end Sys2Proof.Machine
end

section
/-! PROOFS. What an instruction leaves unchanged, and where it leaves PC (10_state.md R53, R55 to R58, R64): each operation may
touch a few named parts, and an instruction touches what its operations do. -/

namespace Sys2Proof.Claims

open Sys2Proof.Machine

/-! ## Frames -/

/-- The parts of the state that ExecFrame lets only named instructions change. -/
structure Touched where
  chain : Bool
  wp : Bool
  run : Bool
  check : Bool
  lines : Bool
  tags : Bool

/-- What an instruction may touch, in the terms of ExecFrame. -/
def touched (i : Instr) : Touched := ⟨isX i, writesWp i, decide (i = .idle), suppresses i, reachesCru i, writesCru i⟩

/-- Everything. -/
def Touched.all : Touched := ⟨true, true, true, true, true, true⟩

/-- `t` is `s` but for PC, ST, memory, the inputs, time and new events, and what `p` names. -/
structure Kept (p : Touched) (s t : State) : Prop where
  md : t.md = s.md
  kbd : t.kbd = s.kbd
  sched : t.sched = s.sched
  instPc : t.instPc = s.instPc
  intPending : t.intPending = s.intPending
  cycles : s.cycles ≤ t.cycles
  events : ∃ l, t.events = s.events ++ l
  chain : p.chain = false → t.xChain = s.xChain
  wp : p.wp = false → t.wp = s.wp
  run : p.run = false → t.run = s.run
  check : p.check = false → t.noIntCheck = s.noIntCheck
  lines : p.lines = false → s.io.SameLines t.io
  tags : p.tags = false → t.tags = s.tags

variable {p : Touched}

theorem Kept.refl (s : State) : Kept p s s :=
  ⟨rfl, rfl, rfl, rfl, rfl, le_rfl, ⟨[], by simp⟩, fun _ => rfl, fun _ => rfl, fun _ => rfl, fun _ => rfl,
    fun _ => .refl _, fun _ => rfl⟩

theorem Kept.trans {s t u : State} (h : Kept p s t) (k : Kept p t u) : Kept p s u where
  md := k.md.trans h.md
  kbd := k.kbd.trans h.kbd
  sched := k.sched.trans h.sched
  instPc := k.instPc.trans h.instPc
  intPending := k.intPending.trans h.intPending
  cycles := h.cycles.trans k.cycles
  events := by
    obtain ⟨l, hl⟩ := h.events
    obtain ⟨m, hm⟩ := k.events
    exact ⟨l ++ m, by rw [hm, hl, List.append_assoc]⟩
  chain hp := (k.chain hp).trans (h.chain hp)
  wp hp := (k.wp hp).trans (h.wp hp)
  run hp := (k.run hp).trans (h.run hp)
  check hp := (k.check hp).trans (h.check hp)
  lines hp := (h.lines hp).trans (k.lines hp)
  tags hp := (k.tags hp).trans (h.tags hp)

theorem Kept.toAll {s t : State} (h : Kept p s t) : Kept .all s t :=
  { h with chain := nofun, wp := nofun, run := nofun, check := nofun, lines := nofun, tags := nofun }

/-- A bus access touches the 9901 and the classifier table at most. -/
theorem Kept.of_bus {s t : State} (h : s.Bus t) (hlines : p.lines = false → s.io.SameLines t.io)
    (htags : p.tags = false → t.tags = s.tags) : Kept p s t :=
  ⟨h.md, h.kbd, h.sched, h.instPc, h.intPending, h.cycles, h.events, fun _ => h.xChain, fun _ => h.wp, fun _ => h.run,
    fun _ => h.noIntCheck, hlines, htags⟩

/-! ### The updates -/

theorem kept_setPc (s : State) (v : Word) : Kept p s (s.setPc v) :=
  .of_bus (bus_setPc s v) (fun _ => .refl _) fun _ => rfl

theorem kept_addCycles (s : State) (n : Nat) : Kept p s (s.addCycles n) :=
  .of_bus (bus_addCycles s n) (fun _ => .refl _) fun _ => rfl

theorem kept_pay (s : State) (i : Instr) (o : CostOutcome) : Kept p s (s.pay i o) := kept_addCycles s _

theorem kept_log (s : State) (e : Event) : Kept p s (s.log e) := .of_bus (bus_log s e) (fun _ => .refl _) fun _ => rfl

theorem kept_setSt (s : State) (v : Word) : Kept p s (s.setSt v) := { Kept.refl s with }

theorem kept_setWp (hp : p.wp = true) (s : State) (v : Word) : Kept p s (s.setWp v) :=
  { Kept.refl s with wp := fun h => by simp [hp] at h }

theorem kept_setRun (hp : p.run = true) (s : State) (v : RunState) : Kept p s (s.setRun v) :=
  { Kept.refl s with run := fun h => by simp [hp] at h }

theorem kept_setNoIntCheck (hp : p.check = true) (s : State) (v : Bool) : Kept p s (s.setNoIntCheck v) :=
  { Kept.refl s with check := fun h => by simp [hp] at h }

theorem kept_setXChain (hp : p.chain = true) (s : State) (v : Option XChain) : Kept p s (s.setXChain v) :=
  { Kept.refl s with chain := fun h => by simp [hp] at h }

/-! ### The buses -/

theorem kept_readByte (s : State) (a : Word) : Kept p s (s.readByte a).2 :=
  .of_bus (bus_readByte s a) (fun _ => sameLines_readByte s a) fun _ => readByte_tags s a

theorem kept_readWord (s : State) (a : Word) : Kept p s (s.readWord a).2 :=
  .of_bus (bus_readWord s a) (fun _ => sameLines_readWord s a) fun _ => readWord_tags s a

theorem kept_writeByte (s : State) (a : Word) (v : Byte) : Kept p s (s.writeByte a v) :=
  .of_bus (bus_writeByte s a v) (fun _ => sameLines_writeByte s a v) fun _ => writeByte_tags s a v

theorem kept_writeWord (s : State) (a v : Word) : Kept p s (s.writeWord a v) :=
  .of_bus (bus_writeWord s a v) (fun _ => sameLines_writeWord s a v) fun _ => writeWord_tags s a v

theorem kept_readReg (s : State) (i : Nat) : Kept p s (s.readReg i).2 := kept_readWord s _

theorem kept_writeReg (s : State) (i : Nat) (v : Word) : Kept p s (s.writeReg i v) := kept_writeWord s _ v

theorem kept_fetch (s : State) : Kept p s s.fetch.2 := (kept_readWord s _).trans (kept_setPc _ _)

theorem kept_readVector (s : State) (v : Word) : Kept p s (s.readVector v).2 :=
  (kept_readWord s v).trans (kept_readWord _ _)

theorem kept_ea (s : State) (g : GA) (size : Size) : Kept p s (s.ea g size).2 := by
  cases g with
  | reg n => exact .refl s
  | ind n => exact kept_readReg s _
  | sym => exact kept_fetch s
  | idx n => exact (kept_fetch s).trans (kept_readReg _ _)
  | inc n => exact (kept_readReg s _).trans (kept_writeReg _ _ _)

theorem kept_sourceWord (s : State) (g : GA) : Kept p s (s.sourceWord g).2 := (kept_ea s g .word).trans (kept_readWord _ _)

theorem kept_sourceByte (s : State) (g : GA) : Kept p s (s.sourceByte g).2 := (kept_ea s g .byte).trans (kept_readByte _ _)

theorem kept_cruBase (s : State) : Kept p s s.cruBase.2 := kept_readReg s 12

theorem kept_cruReadBits (hp : p.lines = true) (s : State) (a : CruAddr) (v : Word) (i n : Nat) :
    Kept p s (s.cruReadBits a v i n).2 :=
  .of_bus (bus_cruReadBits s a v i n) (fun h => by simp [hp] at h) fun _ => cruReadBits_tags s a v i n

theorem kept_cruRead (hp : p.lines = true) (s : State) (a : CruAddr) : Kept p s (s.cruRead a).2 :=
  .of_bus (bus_cruRead s a) (fun h => by simp [hp] at h) fun _ => cruRead_tags s a

theorem kept_cruWriteBits (hl : p.lines = true) (ht : p.tags = true) (s : State) (a : CruAddr) (v : Word) (i n : Nat) :
    Kept p s (s.cruWriteBits a v i n) :=
  .of_bus (bus_cruWriteBits s a v i n) (fun h => by simp [hl] at h) fun h => by simp [ht] at h

theorem kept_cruWrite (hl : p.lines = true) (ht : p.tags = true) (s : State) (a : CruAddr) (b : Bool) :
    Kept p s (s.cruWrite a b) :=
  .of_bus (bus_cruWrite s a b) (fun h => by simp [hl] at h) fun h => by simp [ht] at h

theorem kept_contextSwitch (hp : p.wp = true) (s : State) (nwp npc : Word) : Kept p s (s.contextSwitch nwp npc) :=
  ((((kept_setWp hp s nwp).trans (kept_writeReg _ _ _)).trans (kept_writeReg _ _ _)).trans (kept_writeReg _ _ _)).trans
    (kept_setPc _ _)

theorem kept_returnContext (hp : p.wp = true) (s : State) : Kept p s s.returnContext :=
  (((((kept_readReg s _).trans (kept_readReg _ _)).trans (kept_readReg _ _)).trans (kept_setSt _ _)).trans
    (kept_setPc _ _)).trans (kept_setWp hp _ _)

/-! ### The execution frames -/

theorem kept_dualModifyWord (s : State) (gs gd : GA) (f : (d v st : Word) → Word × Word) :
    Kept p s (s.dualModifyWord gs gd f) :=
  ((((kept_sourceWord s gs).trans (kept_ea _ gd .word)).trans (kept_readWord _ _)).trans (kept_setSt _ _)).trans
    (kept_writeWord _ _ _)

theorem kept_dualModifyByte (s : State) (gs gd : GA) (f : (d v : Byte) → (st : Word) → Byte × Word) :
    Kept p s (s.dualModifyByte gs gd f) :=
  ((((kept_sourceByte s gs).trans (kept_ea _ gd .byte)).trans (kept_readByte _ _)).trans (kept_setSt _ _)).trans
    (kept_writeByte _ _ _)

theorem kept_dualCompareWord (s : State) (gs gd : GA) (f : (v d st : Word) → Word) :
    Kept p s (s.dualCompareWord gs gd f) :=
  (((kept_sourceWord s gs).trans (kept_ea _ gd .word)).trans (kept_readWord _ _)).trans (kept_setSt _ _)

theorem kept_dualCompareByte (s : State) (gs gd : GA) (f : (v d : Byte) → (st : Word) → Word) :
    Kept p s (s.dualCompareByte gs gd f) :=
  (((kept_sourceByte s gs).trans (kept_ea _ gd .byte)).trans (kept_readByte _ _)).trans (kept_setSt _ _)

theorem kept_dualMoveWord (s : State) (gs gd : GA) (f : (v st : Word) → Word) : Kept p s (s.dualMoveWord gs gd f) :=
  (((kept_sourceWord s gs).trans (kept_ea _ gd .word)).trans (kept_setSt _ _)).trans (kept_writeWord _ _ _)

theorem kept_dualMoveByte (s : State) (gs gd : GA) (f : (v : Byte) → (st : Word) → Word) :
    Kept p s (s.dualMoveByte gs gd f) :=
  (((kept_sourceByte s gs).trans (kept_ea _ gd .byte)).trans (kept_setSt _ _)).trans (kept_writeByte _ _ _)

theorem kept_singleModify (s : State) (g : GA) (f : (v st : Word) → Word × Word) : Kept p s (s.singleModify g f) :=
  (((kept_ea s g .word).trans (kept_readWord _ _)).trans (kept_setSt _ _)).trans (kept_writeWord _ _ _)

theorem kept_singleSet (s : State) (g : GA) (v : Word) : Kept p s (s.singleSet g v) :=
  (kept_ea s g .word).trans (kept_writeWord _ _ _)

theorem kept_registerTest (s : State) (gs : GA) (d : Reg) (f : (v x st : Word) → Word) :
    Kept p s (s.registerTest gs d f) :=
  ((kept_sourceWord s gs).trans (kept_readReg _ _)).trans (kept_setSt _ _)

theorem kept_immediateModify (s : State) (w : Reg) (f : (x imm st : Word) → Word × Word) :
    Kept p s (s.immediateModify w f) :=
  (((kept_fetch s).trans (kept_readReg _ _)).trans (kept_setSt _ _)).trans (kept_writeReg _ _ _)

theorem kept_jump (s : State) (i : Instr) (cond : Bool) (disp : Byte) : Kept p s (s.jump i cond disp) := by
  rw [State.jump]
  split
  · exact (kept_setPc s _).trans (kept_pay _ _ _)
  · exact kept_pay s _ _

theorem kept_shiftCount (s : State) (c : BitVec 4) : Kept p s (s.shiftCount c).2 := by
  rw [State.shiftCount]
  split
  · exact kept_readReg s 0
  · exact .refl s

theorem kept_shift (s : State) (i : Instr) (w : Reg) (c : BitVec 4)
    (f : (v : Word) → (n : Nat) → (st : Word) → Word × Word) : Kept p s (s.shift i w c f) :=
  ((((kept_shiftCount s c).trans (kept_readReg _ _)).trans (kept_setSt _ _)).trans (kept_writeReg _ _ _)).trans
    (kept_pay _ _ _)

/-! ### The instructions -/

/-- An instruction touches what ExecFrame lets it: its frame's operations, and its base cost. -/
theorem execPlain_kept (i : Instr) (s : State) : NextWith (Kept (touched i) s) (execPlain i s) := by
  cases i with
  | a gs gd | s gs gd | soc gs gd | szc gs gd => exact ⟨_, rfl, (kept_dualModifyWord ..).trans (kept_pay ..)⟩
  | ab gs gd | sb gs gd | socb gs gd | szcb gs gd => exact ⟨_, rfl, (kept_dualModifyByte ..).trans (kept_pay ..)⟩
  | c gs gd => exact ⟨_, rfl, (kept_dualCompareWord ..).trans (kept_pay ..)⟩
  | cb gs gd => exact ⟨_, rfl, (kept_dualCompareByte ..).trans (kept_pay ..)⟩
  | mov gs gd => exact ⟨_, rfl, (kept_dualMoveWord ..).trans (kept_pay ..)⟩
  | movb gs gd => exact ⟨_, rfl, (kept_dualMoveByte ..).trans (kept_pay ..)⟩
  | jmp _ | jlt _ | jle _ | jeq _ | jhe _ | jgt _ | jne _ | jnc _ | joc _ | jno _ | jl _ | jh _ | jop _ =>
    exact ⟨_, rfl, kept_jump ..⟩
  | sbo _ | sbz _ =>
    exact ⟨_, rfl, ((kept_cruBase s).trans (kept_cruWrite rfl rfl _ _ _)).trans (kept_pay ..)⟩
  | tb _ =>
    exact ⟨_, rfl, (((kept_cruBase s).trans (kept_cruRead rfl _ _)).trans (kept_setSt ..)).trans (kept_pay ..)⟩
  | coc _ _ | czc _ _ => exact ⟨_, rfl, (kept_registerTest ..).trans (kept_pay ..)⟩
  | xor gs d =>
    exact ⟨_, rfl, ((((kept_sourceWord s gs).trans (kept_readReg ..)).trans (kept_setSt ..)).trans
      (kept_writeReg ..)).trans (kept_pay ..)⟩
  | xop gs _ =>
    exact ⟨_, rfl, ((((((kept_ea s gs .word).trans (kept_readVector ..)).trans (kept_contextSwitch rfl _ _ _)).trans
      (kept_writeReg ..)).trans (kept_setSt ..)).trans (kept_setNoIntCheck rfl _ true)).trans (kept_pay ..)⟩
  | mpy gs d =>
    exact ⟨_, rfl, ((((kept_sourceWord s gs).trans (kept_readReg ..)).trans (kept_writeReg ..)).trans
      (kept_writeReg ..)).trans (kept_pay ..)⟩
  | div gs d =>
    refine nextWith_div (fun v hi hv hhi _ => ?_) fun v hi hv hhi _ q r o => ?_
    · subst hv hhi
      exact (((kept_sourceWord s gs).trans (kept_readReg ..)).trans (kept_setSt ..)).trans (kept_pay ..)
    · subst hv hhi
      exact ((((((kept_sourceWord s gs).trans (kept_readReg ..)).trans (kept_readReg ..)).trans (kept_writeReg ..)).trans
        (kept_writeReg ..)).trans (kept_setSt ..)).trans (kept_pay ..)
  | ldcr gs c =>
    refine nextWith_ldcr (fun _ v hv => ?_) fun _ v hv => ?_
    · subst hv
      exact ((((kept_sourceByte s gs).trans (kept_cruBase _)).trans (kept_cruWriteBits rfl rfl ..)).trans
        (kept_setSt ..)).trans (kept_pay ..)
    · subst hv
      exact ((((kept_sourceWord s gs).trans (kept_cruBase _)).trans (kept_cruWriteBits rfl rfl ..)).trans
        (kept_setSt ..)).trans (kept_pay ..)
  | stcr gd c =>
    refine nextWith_stcr (fun _ a ha => ?_) fun _ a ha => ?_
    · subst ha
      exact (((((kept_ea s gd .byte).trans (kept_cruBase _)).trans (kept_cruReadBits rfl ..)).trans
        (kept_setSt ..)).trans (kept_writeByte ..)).trans (kept_pay ..)
    · subst ha
      exact (((((kept_ea s gd .word).trans (kept_cruBase _)).trans (kept_cruReadBits rfl ..)).trans
        (kept_setSt ..)).trans (kept_writeWord ..)).trans (kept_pay ..)
  | sra w c | srl w c | sla w c | src w c => exact ⟨_, rfl, kept_shift ..⟩
  | blwp g =>
    exact ⟨_, rfl, ((((kept_ea s g .word).trans (kept_readVector ..)).trans (kept_contextSwitch rfl _ _ _)).trans
      (kept_setNoIntCheck rfl _ true)).trans (kept_pay ..)⟩
  | b g => exact ⟨_, rfl, ((kept_ea s g .word).trans (kept_setPc ..)).trans (kept_pay ..)⟩
  | x g => exact ⟨_, rfl, .refl s⟩
  | clr g | seto g => exact ⟨_, rfl, (kept_singleSet ..).trans (kept_pay ..)⟩
  | neg g | inv g | inc g | inct g | dec g | dect g | swpb g =>
    exact ⟨_, rfl, (kept_singleModify ..).trans (kept_pay ..)⟩
  | bl g =>
    exact ⟨_, rfl, (((kept_ea s g .word).trans (kept_writeReg ..)).trans (kept_setPc ..)).trans (kept_pay ..)⟩
  | abs g =>
    refine nextWith_abs fun v t hv ht => ?_
    have hkept : Kept (touched (.abs g)) s t := by
      rw [ht, hv]
      exact ((kept_ea s g .word).trans (kept_readWord ..)).trans (kept_setSt ..)
    exact ⟨fun _ => (hkept.trans (kept_writeWord ..)).trans (kept_pay ..), hkept.trans (kept_pay ..)⟩
  | li w => exact ⟨_, rfl, (((kept_fetch s).trans (kept_setSt ..)).trans (kept_writeReg ..)).trans (kept_pay ..)⟩
  | ai w | andi w | ori w => exact ⟨_, rfl, (kept_immediateModify ..).trans (kept_pay ..)⟩
  | ci w => exact ⟨_, rfl, (((kept_fetch s).trans (kept_readReg ..)).trans (kept_setSt ..)).trans (kept_pay ..)⟩
  | stwp w | stst w => exact ⟨_, rfl, (kept_writeReg ..).trans (kept_pay ..)⟩
  | lwpi => exact ⟨_, rfl, ((kept_fetch s).trans (kept_setWp rfl _ _)).trans (kept_pay ..)⟩
  | limi => exact ⟨_, rfl, ((kept_fetch s).trans (kept_setSt ..)).trans (kept_pay ..)⟩
  | idle => exact ⟨_, rfl, (kept_setRun rfl s .idleWaiting).trans (kept_pay ..)⟩
  | rset => exact ⟨_, rfl, ((kept_setSt s _).trans (kept_log ..)).trans (kept_pay ..)⟩
  | rtwp => exact ⟨_, rfl, (kept_returnContext rfl s).trans (kept_pay ..)⟩
  | ckon | ckof | lrex => exact ⟨_, rfl, (kept_log ..).trans (kept_pay ..)⟩
  | illegal0000 _ | illegal0320 _ | illegal0780 _ | illegal0C00 _ =>
    exact ⟨_, rfl, (kept_log ..).trans (kept_addCycles ..)⟩

theorem exec_eq_execPlain_of_not_isX {i : Instr} (h : isX i = false) (s : State) : exec i s = execPlain i s :=
  exec_eq_execPlain i s fun g hg => by simp [hg, isX] at h

theorem exec_kept (i : Instr) (s : State) : NextWith (Kept .all s) (exec i s) :=
  nextWith_exec (P := Kept .all s) (fun _ g h => h.trans (kept_sourceWord _ g))
    (fun u j h => (execPlain_kept j u).mono fun _ hj => h.trans hj.toAll) (fun _ k h => h.trans (kept_addCycles _ k))
    (fun _ _ h => h.trans (kept_setXChain rfl _ _)) (.refl s) i

/-- Settles O11: the parts that are not the CPU's are touched by no operation, the others by the named ones. -/
theorem execFrame : Obligations.ExecFrame := by
  intro i s t ht
  have hall := (exec_kept i s).of_eq ht
  refine ⟨hall.md, hall.kbd, hall.sched, hall.instPc, hall.intPending, hall.cycles, hall.events, fun hx => ?_⟩
  rw [exec_eq_execPlain_of_not_isX hx] at ht
  have h := (execPlain_kept i s).of_eq ht
  refine ⟨h.chain hx, h.wp, fun hidle => h.run (decide_eq_false hidle), h.check, fun hcru => ?_, h.tags⟩
  have hl := h.lines hcru
  exact ⟨hl.timerMode, hl.en, hl.clock, hl.dec, hl.tBase, hl.tDelta, hl.col, hl.caps⟩

/-! ## PC (10_state.md R53, 40_operands.md R202) -/

/-- PC after `k` extension words. -/
def pcAfter (s : State) (k : Nat) : Word := s.pc + 2 * BitVec.ofNat 16 k

theorem pcAfter_zero (s : State) : pcAfter s 0 = s.pc := by simp [pcAfter]

theorem pcAfter_add (s : State) (k m : Nat) : pcAfter s k + 2 * BitVec.ofNat 16 m = pcAfter s (k + m) := by
  rw [pcAfter, pcAfter, BitVec.ofNat_add, BitVec.mul_add, BitVec.add_assoc]

theorem even_pcAfter {s : State} (h : s.pc.getLsbD 0 = false) (k : Nat) : (pcAfter s k).getLsbD 0 = false := by
  rw [even_iff] at *
  rw [pcAfter]
  simp only [BitVec.toNat_add, BitVec.toNat_mul, BitVec.toNat_ofNat, show (2 : Word).toNat = 2 from rfl]
  omega

section
variable {s : State} (h : s.pc.getLsbD 0 = false)
include h

theorem fetch_pcAfter : s.fetch.2.pc = pcAfter s 1 := (fetch_pc s).trans (evenAddr_add_two h)

theorem ea_pcAfter (g : GA) (size : Size) : (s.ea g size).2.pc = pcAfter s g.extensionWords := ea_pc s g size h

theorem sourceWord_pcAfter (g : GA) : (s.sourceWord g).2.pc = pcAfter s g.extensionWords :=
  (readWord_pc ..).trans (ea_pcAfter h g .word)

theorem sourceByte_pcAfter (g : GA) : (s.sourceByte g).2.pc = pcAfter s g.extensionWords :=
  (readByte_pc ..).trans (ea_pcAfter h g .byte)

/-- The second operand's extension word follows the first's (R202). -/
theorem ea_after_pcAfter {u : State} {k : Nat} (hu : u.pc = pcAfter s k) (g : GA) (size : Size) :
    (u.ea g size).2.pc = pcAfter s (k + g.extensionWords) := by
  rw [ea_pc u g size (hu ▸ even_pcAfter h k), hu, pcAfter_add]

theorem dualModifyWord_pcAfter (gs gd : GA) (f : (d v st : Word) → Word × Word) :
    (s.dualModifyWord gs gd f).pc = pcAfter s (gs.extensionWords + gd.extensionWords) := by
  simp [State.dualModifyWord, ea_after_pcAfter h (sourceWord_pcAfter h gs)]

theorem dualModifyByte_pcAfter (gs gd : GA) (f : (d v : Byte) → (st : Word) → Byte × Word) :
    (s.dualModifyByte gs gd f).pc = pcAfter s (gs.extensionWords + gd.extensionWords) := by
  simp [State.dualModifyByte, ea_after_pcAfter h (sourceByte_pcAfter h gs)]

theorem dualCompareWord_pcAfter (gs gd : GA) (f : (v d st : Word) → Word) :
    (s.dualCompareWord gs gd f).pc = pcAfter s (gs.extensionWords + gd.extensionWords) := by
  simp [State.dualCompareWord, ea_after_pcAfter h (sourceWord_pcAfter h gs)]

theorem dualCompareByte_pcAfter (gs gd : GA) (f : (v d : Byte) → (st : Word) → Word) :
    (s.dualCompareByte gs gd f).pc = pcAfter s (gs.extensionWords + gd.extensionWords) := by
  simp [State.dualCompareByte, ea_after_pcAfter h (sourceByte_pcAfter h gs)]

theorem dualMoveWord_pcAfter (gs gd : GA) (f : (v st : Word) → Word) :
    (s.dualMoveWord gs gd f).pc = pcAfter s (gs.extensionWords + gd.extensionWords) := by
  simp [State.dualMoveWord, ea_after_pcAfter h (sourceWord_pcAfter h gs)]

theorem dualMoveByte_pcAfter (gs gd : GA) (f : (v : Byte) → (st : Word) → Word) :
    (s.dualMoveByte gs gd f).pc = pcAfter s (gs.extensionWords + gd.extensionWords) := by
  simp [State.dualMoveByte, ea_after_pcAfter h (sourceByte_pcAfter h gs)]

theorem singleModify_pcAfter (g : GA) (f : (v st : Word) → Word × Word) :
    (s.singleModify g f).pc = pcAfter s g.extensionWords := by
  simp [State.singleModify, ea_pcAfter h]

theorem singleSet_pcAfter (g : GA) (v : Word) : (s.singleSet g v).pc = pcAfter s g.extensionWords := by
  simp [State.singleSet, ea_pcAfter h]

theorem registerTest_pcAfter (gs : GA) (d : Reg) (f : (v x st : Word) → Word) :
    (s.registerTest gs d f).pc = pcAfter s gs.extensionWords := by
  simp [State.registerTest, sourceWord_pcAfter h]

theorem immediateModify_pcAfter (w : Reg) (f : (x imm st : Word) → Word × Word) :
    (s.immediateModify w f).pc = pcAfter s 1 := by
  simp only [State.immediateModify, writeReg_pc, setSt_pc, readReg_pc, fetch_pcAfter h]

end

theorem pay_pc (s : State) (i : Instr) (o : CostOutcome) : (s.pay i o).pc = s.pc := rfl

theorem shift_pc (s : State) (i : Instr) (w : Reg) (c : BitVec 4)
    (f : (v : Word) → (n : Nat) → (st : Word) → Word × Word) : (s.shift i w c f).pc = s.pc := by
  simp [State.shift, pay_pc]

/-- PC moves with the fetches of extension and immediate words and with nothing else. -/
theorem execPlain_pcAfter {i : Instr} {s : State} (hb : branches i = false) (h : s.pc.getLsbD 0 = false) :
    NextWith (fun t => t.pc = pcAfter s i.extensionWords) (execPlain i s) := by
  cases i with
  | a gs gd | s gs gd | soc gs gd | szc gs gd => exact ⟨_, rfl, (pay_pc ..).trans (dualModifyWord_pcAfter h gs gd _)⟩
  | ab gs gd | sb gs gd | socb gs gd | szcb gs gd => exact ⟨_, rfl, (pay_pc ..).trans (dualModifyByte_pcAfter h gs gd _)⟩
  | c gs gd => exact ⟨_, rfl, (pay_pc ..).trans (dualCompareWord_pcAfter h gs gd _)⟩
  | cb gs gd => exact ⟨_, rfl, (pay_pc ..).trans (dualCompareByte_pcAfter h gs gd _)⟩
  | mov gs gd => exact ⟨_, rfl, (pay_pc ..).trans (dualMoveWord_pcAfter h gs gd _)⟩
  | movb gs gd => exact ⟨_, rfl, (pay_pc ..).trans (dualMoveByte_pcAfter h gs gd _)⟩
  | jmp _ | jlt _ | jle _ | jeq _ | jhe _ | jgt _ | jne _ | jnc _ | joc _ | jno _ | jl _ | jh _ | jop _ => cases hb
  | b _ | bl _ | blwp _ | xop _ _ | rtwp | x _ => cases hb
  | sbo _ | sbz _ | tb _ =>
    exact ⟨_, rfl, by simp [pay_pc, Instr.extensionWords, pcAfter_zero]⟩
  | coc gs d | czc gs d => exact ⟨_, rfl, (pay_pc ..).trans (registerTest_pcAfter h gs d _)⟩
  | xor gs d | mpy gs d =>
    exact ⟨_, rfl, by simp [pay_pc, Instr.extensionWords, sourceWord_pcAfter h]⟩
  | div gs d =>
    refine nextWith_div (fun v hi hv hhi _ => ?_) fun v hi hv hhi _ q r o => ?_
    · simp [hhi, hv, pay_pc, Instr.extensionWords, sourceWord_pcAfter h]
    · simp [hhi, hv, pay_pc, Instr.extensionWords, sourceWord_pcAfter h]
  | ldcr gs c =>
    refine nextWith_ldcr (fun _ v hv => ?_) fun _ v hv => ?_
    · simp [hv, pay_pc, Instr.extensionWords, sourceByte_pcAfter h]
    · simp [hv, pay_pc, Instr.extensionWords, sourceWord_pcAfter h]
  | stcr gd c =>
    refine nextWith_stcr (fun _ a ha => ?_) fun _ a ha => ?_
    · simp [ha, pay_pc, Instr.extensionWords, ea_pcAfter h]
    · simp [ha, pay_pc, Instr.extensionWords, ea_pcAfter h]
  | sra w c | srl w c | sla w c | src w c => exact ⟨_, rfl, (shift_pc ..).trans (pcAfter_zero s).symm⟩
  | clr g | seto g => exact ⟨_, rfl, (pay_pc ..).trans (singleSet_pcAfter h g _)⟩
  | neg g | inv g | inc g | inct g | dec g | dect g | swpb g => exact ⟨_, rfl, (pay_pc ..).trans (singleModify_pcAfter h g _)⟩
  | abs g =>
    refine nextWith_abs fun v t hv ht => ?_
    have hpc : t.pc = pcAfter s g.extensionWords := by simp [ht, hv, ea_pcAfter h]
    exact ⟨fun _ => (writeWord_pc ..).trans hpc, hpc⟩
  | li w => exact ⟨_, rfl, (pay_pc ..).trans ((writeReg_pc ..).trans (fetch_pcAfter h))⟩
  | ai w | andi w | ori w => exact ⟨_, rfl, (pay_pc ..).trans (immediateModify_pcAfter h w _)⟩
  | ci w => exact ⟨_, rfl, (pay_pc ..).trans ((readReg_pc ..).trans (fetch_pcAfter h))⟩
  | lwpi | limi => exact ⟨_, rfl, fetch_pcAfter h⟩
  | stwp w | stst w => exact ⟨_, rfl, (pay_pc ..).trans ((writeReg_pc ..).trans (pcAfter_zero s).symm)⟩
  | idle | rset | ckon | ckof | lrex | illegal0000 _ | illegal0320 _ | illegal0780 _ | illegal0C00 _ =>
    exact ⟨_, rfl, (pcAfter_zero s).symm⟩

theorem isX_of_branches {i : Instr} (hb : branches i = false) : isX i = false := by
  cases i with
  | x g => cases hb
  | _ => rfl

/-- Settles O10: an instruction that does not branch is no X. -/
theorem pcAdvance : Obligations.PcAdvance := by
  intro i s t hb h ht
  rw [exec_eq_execPlain_of_not_isX (isX_of_branches hb)] at ht
  exact (execPlain_pcAfter hb h).of_eq ht

end Sys2Proof.Claims
end

section
/-! PROOFS. The data bus (20_memory.md R101 to R122, R131): what a read answers, and what a store changes, region by region; a
read or a store is its penalty and then its region's handler. -/

namespace Sys2Proof.Claims

open Sys2Proof.Machine

/-! ## Addresses: the two bytes of a word share their granule and their page register (20_memory.md R103, R114, R130) -/

theorem tagAt_evenAddr (s : State) (a : Word) : s.tagAt (evenAddr a) = s.tagAt a := by
  rw [tagAt_eq, tagAt_eq, evenAddr_toNat]
  congr 1
  omega

theorem pageOf_eq_ofNat (a : Word) : pageOf a = BitVec.ofNat 4 (a.toNat / 2) := by
  apply BitVec.eq_of_toNat_eq
  simp [pageOf, Nat.shiftRight_eq_div_pow]

theorem pageOf_evenAddr (a : Word) : pageOf (evenAddr a) = pageOf a := by
  rw [pageOf_eq_ofNat, pageOf_eq_ofNat, evenAddr_toNat]
  congr 1
  omega

theorem toNat_evenAddr_succ (a : Word) : (evenAddr a + 1).toNat = a.toNat - a.toNat % 2 + 1 := by
  have hlt := a.isLt
  simp only [BitVec.toNat_add, evenAddr_toNat, show (1 : Word).toNat = 1 from rfl]
  omega

theorem pageOf_evenAddr_succ (a : Word) : pageOf (evenAddr a + 1) = pageOf a := by
  rw [pageOf_eq_ofNat, pageOf_eq_ofNat, toNat_evenAddr_succ]
  congr 1
  omega

theorem regionOf_eq_ofNat (a : Word) : regionOf a = BitVec.ofNat 4 (a.toNat / 4096) := by
  apply BitVec.eq_of_toNat_eq
  simp [regionOf, Nat.shiftRight_eq_div_pow]

/-! ## What backs an address of each tag (20_memory.md R115 to R121) -/

/-- A port holds no data (R119, R121). -/
theorem peek_of_port {s : State} {a : Word} (h : isCollaborator (s.tagAt a) = true ∨ s.tagAt a = .unused) :
    s.peek a = none := by
  rw [State.peek, State.home]
  cases htag : s.tagAt a with
  | sound | speech | vdpRd | vdpWr | grom | dsr | disk | unused => rfl
  | consoleRom | scratch | expRam | cartBanked | cartPlain | mapperRegs => simp [htag, isCollaborator] at h

theorem peekWord_of_peek_none {s : State} {e : Word} (h : s.peek e = none) : s.peekWord e = none := by
  rw [State.peekWord, h]
  cases s.peek (e + 1) <;> rfl

/-- Both bytes of a word of the register window come from one page register (R132). -/
theorem peekWord_mapperRegs {s : State} {a : Word} (h : s.tagAt (evenAddr a) = .mapperRegs) :
    s.peekWord (evenAddr a) = some (s.mapper.reqOf (pageOf a)) := by
  have hodd : (evenAddr a + 1).getLsbD 0 = true := by
    rw [← Bool.not_eq_false, even_iff, toNat_evenAddr_succ]
    omega
  have hhi : s.peek (evenAddr a) = some (hiByte (s.mapper.reqOf (pageOf a))) := by
    simp only [State.peek, State.home, h, State.homeByte, evenAddr_bit0, pageOf_evenAddr]
    rfl
  have hlo : s.peek (evenAddr a + 1) = some (loByte (s.mapper.reqOf (pageOf a))) := by
    simp only [State.peek, State.home, tagAt_succ s (evenAddr_bit0 a), h, State.homeByte, hodd, pageOf_evenAddr_succ]
    rfl
  rw [peekWord_of_peek hhi hlo]
  exact congrArg some (joinBytes_hi_lo _)

/-! ## Reads -/

theorem chargeBus_penalty (s : State) (t : RegionTag) : s.chargeBus t = s.addCycles (penalty s t) :=
  chargeBus_addCycles s t

/-- Where no data is and no collaborator answers, a read draws (R119). -/
theorem readByte_of_free {s : State} {a : Word} (hp : s.peek a = none) (hc : isCollaborator (s.tagAt a) = false) :
    s.readByte a = (Config.drawByte s.draws, (s.addCycles (penalty s (s.tagAt a))).nextDraw) := by
  simp only [State.readByte, hp, hc, chargeBus_penalty]
  rfl

theorem readWord_of_free {s : State} {a : Word} (hp : s.peekWord (evenAddr a) = none)
    (hc : isCollaborator (s.tagAt a) = false) :
    s.readWord a = (Config.drawWord s.draws, (s.addCycles (penalty s (s.tagAt a))).nextDraw) := by
  simp only [State.readWord, hp, tagAt_evenAddr, hc, chargeBus_penalty]
  rfl

theorem not_isCollaborator_of_cart_or_unused {t : RegionTag} (h : t = .unused ∨ t = .cartPlain ∨ t = .cartBanked) :
    isCollaborator t = false := by
  obtain rfl | rfl | rfl := h <;> rfl

/-- Settles O14: an address with data is read there, any other address of these tags draws. -/
theorem dataReads : Obligations.DataReads := by
  intro s a e
  refine ⟨fun b hb => ?byte, fun hi lo hhi hlo => ?word, fun h => ?freeByte, fun h => ?freeWord, fun h => ?rom,
    fun h => ?scratch, fun h => ?expRam, fun h hlt => ?cartPlain, fun h hlt => ?cartBanked, fun h => ?page⟩
  case byte => rw [readByte_of_peek hb, chargeBus_addCycles]
  case word => rw [readWord_of_peek (peekWord_of_peek hhi hlo), chargeBus_addCycles]
  case freeByte =>
    have hp : s.peek a = none := h.elim (fun hu => peek_of_port (.inr hu)) And.right
    rw [readByte_of_free hp (not_isCollaborator_of_cart_or_unused (h.imp_right And.left))]
    rfl
  case freeWord =>
    have hp : s.peekWord e = none :=
      h.elim (fun hu => peekWord_of_peek_none (peek_of_port (.inr ((tagAt_evenAddr s a).trans hu)))) And.right
    rw [readWord_of_free hp (not_isCollaborator_of_cart_or_unused (h.imp_right And.left))]
    rfl
  case rom => simp only [State.peek, State.home, h, State.homeByte]
  case scratch => simp only [State.peek, State.home, h, State.homeByte]
  case expRam => simp only [State.peek, State.home, h, State.homeByte, regionOf_eq_ofNat]
  case cartPlain => simp only [State.peek, State.home, h, State.homeByte, if_pos hlt]
  case cartBanked =>
    have hoff : s.cartBank * 8192 + a.toNat % 8192 < s.md.cartBanks * 8192 := by omega
    simp only [State.peek, State.home, h, State.homeByte, if_pos hoff]
  case page => rw [peekWord_mapperRegs h, pageOf_eq_ofNat]

/-! ## Stores to RAM (R116, R117) -/

theorem chargeStore_penalty (s : State) (t : RegionTag) : s.chargeStore t = s.addCycles (storePenalty s t) :=
  chargeStore_addCycles s t

theorem homeByte_addCycles (s : State) (n : Nat) (h : Home) : (s.addCycles n).homeByte h = s.homeByte h := by
  cases h <;> rfl

theorem homeByte_writeByte_ram {s : State} {a : Word} (hs : s.scratch.wf) (hp : s.pool.wf) (h : Ram s a) (v : Byte)
    (x : Home) : (s.writeByte a v).homeByte x = if x = s.home a then some v else s.homeByte x := by
  rw [writeByte_ram h, chargeStore_penalty, homeByte_storeHome (s := s.addCycles _) hs hp (ram_home h),
    homeByte_addCycles]

theorem homeByte_writeWord_ram {s : State} {a : Word} (hs : s.scratch.wf) (hp : s.pool.wf) (h : Ram s (evenAddr a))
    (v : Word) (x : Home) :
    (s.writeWord a v).homeByte x =
      if x = s.home (evenAddr a) then some (hiByte v) else if x = s.home (evenAddr a + 1) then some (loByte v)
      else s.homeByte x := by
  have hlo := ram_home (ramAt_succ (evenAddr_bit0 a) h)
  obtain ⟨hs1, hp1⟩ := storeHome_wf (s := s.addCycles (storePenalty s (s.tagAt (evenAddr a)))) (s.home (evenAddr a))
    (hiByte v) hs hp
  rw [writeWord_ram h, chargeStore_penalty, homeByte_storeHome hs1 hp1 hlo,
    homeByte_storeHome (s := s.addCycles _) hs hp (ram_home h), homeByte_addCycles]
  by_cases hx : x = s.home (evenAddr a)
  · have hne : ¬ x = s.home (evenAddr a + 1) := hx ▸ (home_succ_ne (evenAddr_bit0 a) h).symm
    rw [if_neg hne, if_pos hx, if_pos hx]
  · rw [if_neg hx, if_neg hx]

theorem home_writeByte_ram {s : State} {a : Word} (h : Ram s a) (v : Byte) (b : Word) :
    (s.writeByte a v).home b = s.home b := by
  rw [writeByte_ram h, chargeStore_penalty, home_storeHome, home_addCycles]

theorem home_writeWord_ram {s : State} {a : Word} (h : Ram s (evenAddr a)) (v b : Word) :
    (s.writeWord a v).home b = s.home b := by
  rw [writeWord_ram h, chargeStore_penalty, home_storeHome, home_storeHome, home_addCycles]

/-- A byte store to RAM costs its penalty and changes RAM, nothing else. -/
theorem writeByte_ram_eq {s : State} {a : Word} (h : Ram s a) (v : Byte) :
    s.writeByte a v =
      { s with
        cycles := s.cycles + storePenalty s (s.tagAt a)
        pool := (s.writeByte a v).pool
        scratch := (s.writeByte a v).scratch } := by
  rw [writeByte_ram h, chargeStore_penalty, storeHome_eq]
  rfl

theorem writeWord_ram_eq {s : State} {a : Word} (h : Ram s (evenAddr a)) (v : Word) :
    s.writeWord a v =
      { s with
        cycles := s.cycles + storePenalty s (s.tagAt (evenAddr a))
        pool := (s.writeWord a v).pool
        scratch := (s.writeWord a v).scratch } := by
  rw [writeWord_ram h, chargeStore_penalty, storeHome_eq,
    storeHome_eq (s.addCycles (storePenalty s (s.tagAt (evenAddr a))))]
  rfl

/-- Settles O15: a store to RAM is its penalty and one `storeHome` per byte, the two bytes of a word at different homes. -/
theorem ramStores : Obligations.RamStores := by
  intro s a hinv e
  refine ⟨fun v h => ?byte, fun v h => ?word, fun b ha hb => ?mirror⟩
  case byte =>
    have hi := hinv.writeByte a v
    have hbytes := homeByte_writeByte_ram hinv.scratchWf hinv.poolWf h v
    refine ⟨hbytes, fun b => ?_, hi.poolWf, hi.scratchWf, writeByte_ram_eq h v⟩
    rw [State.peek, home_writeByte_ram h, hbytes]
    rfl
  case word =>
    have hi := hinv.writeWord a v
    have hbytes := homeByte_writeWord_ram hinv.scratchWf hinv.poolWf h v
    refine ⟨peekWord_writeWord_ram hinv.scratchWf hinv.poolWf h v, hbytes, fun b => ?_, hi.poolWf, hi.scratchWf,
      writeWord_ram_eq h v⟩
    rw [State.peek, home_writeWord_ram h, hbytes]
    rfl
  case mirror => simp only [State.home, ha, hb, Home.scratch.injEq]

/-! ## Stores elsewhere (R115, R118, R119, R121, R131) -/

/-- The time of a store, and the free value that its read before it drew (R106): `data` says whether the read found data. -/
def storeTime (s : State) (t : RegionTag) (data : Bool) : State :=
  { s with
    cycles := s.cycles + storePenalty s t
    draws := if s.md.readBeforeWrite = true ∧ data = false then s.draws + 1 else s.draws }

theorem storeTime_of_data (s : State) (t : RegionTag) : storeTime s t true = s.addCycles (storePenalty s t) := by
  simp [storeTime, State.addCycles]

/-- The read before a write, where no collaborator answers it, and the write's own penalty. -/
theorem chargeBus_read_before {s u : State} {t : RegionTag} {data : Bool}
    (hu : u = if data then s.chargeBus t else (s.chargeBus t).nextDraw) :
    (if s.md.readBeforeWrite then u else s).chargeBus t = storeTime s t data := by
  have hcharge {w : State} (hw : w.md = s.md) : w.chargeBus t = w.addCycles (penalty s t) := by
    rw [chargeBus_penalty, penalty, penalty, hw]
  cases hrbw : s.md.readBeforeWrite
  · simp [storeTime, hrbw, hcharge, storePenalty, State.addCycles]
  · have hmd : u.md = s.md := by rw [hu]; split <;> simp
    rw [if_pos rfl, hcharge hmd, hu, hcharge rfl]
    cases data <;> simp [storeTime, hrbw, storePenalty, State.addCycles, State.nextDraw, Nat.two_mul, Nat.add_assoc]

theorem readByte_snd {s : State} {a : Word} (hc : isCollaborator (s.tagAt a) = false) :
    (s.readByte a).2 =
      if (s.peek a).isSome then s.chargeBus (s.tagAt a) else (s.chargeBus (s.tagAt a)).nextDraw := by
  cases hp : s.peek a with
  | some b => rw [readByte_of_peek hp]; rfl
  | none => rw [readByte_of_free hp hc, chargeBus_penalty]; rfl

theorem readWord_snd {s : State} {a : Word} (hc : isCollaborator (s.tagAt a) = false) :
    (s.readWord a).2 =
      if (s.peekWord (evenAddr a)).isSome then s.chargeBus (s.tagAt a) else (s.chargeBus (s.tagAt a)).nextDraw := by
  cases hp : s.peekWord (evenAddr a) with
  | some v => rw [readWord_of_peek hp, tagAt_evenAddr]; rfl
  | none => rw [readWord_of_free hp hc, chargeBus_penalty]; rfl

theorem tagAt_read_before {s u : State} (h : s.SameMem u) (b : Bool) (a : Word) :
    (if b then u else s).tagAt a = s.tagAt a := by
  cases b
  · rfl
  · exact h.tagAt a

/-- A byte store where no collaborator is: its time, then the handler. -/
theorem writeByte_eq_handle {s : State} {a : Word} (hc : isCollaborator (s.tagAt a) = false) (v : Byte) :
    s.writeByte a v = (storeTime s (s.tagAt a) (s.peek a).isSome).handleByte a v := by
  rw [State.writeByte, ← chargeBus_read_before (readByte_snd hc),
    tagAt_read_before (sameMem_readByte s a)]

theorem writeWord_eq_handle {s : State} {a : Word} (hc : isCollaborator (s.tagAt a) = false) (v : Word) :
    s.writeWord a v = (storeTime s (s.tagAt a) (s.peekWord (evenAddr a)).isSome).handleWord (evenAddr a) v := by
  rw [State.writeWord, ← chargeBus_read_before (readWord_snd hc),
    tagAt_read_before (sameMem_readWord s a), tagAt_evenAddr]

/-! ### ROM, cartridges and unused addresses (R115, R118, R119) -/

theorem handle_of_rom {s : State} {a : Word} (h : s.tagAt a = .consoleRom ∨ s.tagAt a = .cartPlain ∨ s.tagAt a = .unused)
    (b : Byte) (v : Word) : s.handleByte a b = s ∧ s.handleWord a v = s := by
  obtain h | h | h := h <;> simp [State.handleByte, State.handleWord, h]

theorem handle_of_cartBanked {s : State} {a : Word} (h : s.tagAt a = .cartBanked) (b : Byte) (v : Word) :
    s.handleByte a b = s.selectCart a ∧ s.handleWord a v = s.selectCart a := by
  simp [State.handleByte, State.handleWord, h]

theorem shiftRight_one_eq_ofNat (a : Word) : a >>> 1 = BitVec.ofNat 16 (a.toNat / 2) := by
  apply BitVec.eq_of_toNat_eq
  have hlt := a.isLt
  simp [Nat.shiftRight_eq_div_pow]
  omega

theorem selectCart_eq (s : State) (a : Word) :
    s.selectCart a = { s with cartBank := (BitVec.ofNat 16 (a.toNat / 2) &&& s.md.cartMask).toNat } := by
  rw [State.selectCart, shiftRight_one_eq_ofNat]
  rfl

theorem selectCart_evenAddr (s : State) (a : Word) : s.selectCart (evenAddr a) = s.selectCart a := by
  rw [selectCart_eq, selectCart_eq, evenAddr_toNat]
  congr 4
  omega

/-- The time of a store in the statement's form. -/
theorem storeTime_isSome {α : Type} (s : State) (t : RegionTag) (o : Option α) :
    storeTime s t o.isSome =
      { s with
        cycles := s.cycles + storePenalty s t
        draws := if s.md.readBeforeWrite = true ∧ o = none then s.draws + 1 else s.draws } := by
  cases o <;> simp [storeTime]

/-- Settles O16: the handler of these tags stores nothing, and a banked cartridge's selects by the address alone. -/
theorem romStores : Obligations.RomStores := by
  intro s a v b e time drawsByte drawsWord
  refine ⟨fun h => ?rom, fun h => ?banked, tagAt_evenAddr s a⟩
  case rom =>
    have hc : isCollaborator (s.tagAt a) = false := by obtain h | h | h := h <;> rw [h] <;> rfl
    rw [writeByte_eq_handle hc, writeWord_eq_handle hc,
      (handle_of_rom (s := storeTime s (s.tagAt a) (s.peek a).isSome) h b v).1,
      (handle_of_rom (s := storeTime s (s.tagAt a) (s.peekWord e).isSome) ((tagAt_evenAddr s a).symm ▸ h) b v).2]
    exact ⟨storeTime_isSome .., storeTime_isSome ..⟩
  case banked =>
    intro bank
    have hc : isCollaborator (s.tagAt a) = false := by rw [h]; rfl
    rw [writeByte_eq_handle hc, writeWord_eq_handle hc,
      (handle_of_cartBanked (s := storeTime s (s.tagAt a) (s.peek a).isSome) h b v).1,
      (handle_of_cartBanked (s := storeTime s (s.tagAt a) (s.peekWord e).isSome) ((tagAt_evenAddr s a).trans h) b v).2,
      selectCart_evenAddr, selectCart_eq, selectCart_eq, storeTime_isSome, storeTime_isSome]
    exact ⟨rfl, rfl⟩

/-! ### The register window (R131) -/

theorem mapper_pageWrite_of_hidden {m : Mapper} (h : m.visible = false) (md : Descriptor) (r : BitVec 4) (v : Word) :
    m.pageWrite md r v = m := by
  simp [Mapper.pageWrite, h]

theorem mapper_pageWrite_of_visible {m : Mapper} (h : m.visible = true) (md : Descriptor) (r : BitVec 4) (v : Word) :
    m.pageWrite md r v =
      if m.active = true ∧ r.toFin ∈ md.swappable then ({ m with reqw := m.reqw.set r.toFin v } : Mapper).install md r.toFin
      else { m with reqw := m.reqw.set r.toFin v } := by
  simp [Mapper.pageWrite, h]

/-- The write to a page register in full: the register, and its region's bank where mapping is active (R131). -/
theorem mapper_pageWrite_fields {m : Mapper} (h : m.visible = true) (md : Descriptor) (r : BitVec 4) (v : Word) :
    let w := m.pageWrite md r v
    (∀ q : Fin 16, w.reqw[q] = if q = r.toFin then v else m.reqw[q]) ∧ w.visible = true ∧ w.active = m.active ∧
    (m.active = true ∧ r.toFin ∈ md.swappable →
      (∀ q : Fin 16, w.bank[q] = if q = r.toFin then samsIndex md v % md.banks else m.bank[q]) ∧
      w.hwm = max m.hwm (samsIndex md v % md.banks)) ∧
    (¬ (m.active = true ∧ r.toFin ∈ md.swappable) → w.bank = m.bank ∧ w.hwm = m.hwm) := by
  intro w
  have hreqw (q : Fin 16) : (m.reqw.set r.toFin v)[q] = if q = r.toFin then v else m.reqw[q] := by
    simp only [Fin.getElem_fin, Vector.getElem_set, Fin.ext_iff, eq_comm]
  have hw := mapper_pageWrite_of_visible h md r v
  by_cases hact : m.active = true ∧ r.toFin ∈ md.swappable
  · rw [if_pos hact] at hw
    have hown : (m.reqw.set r.toFin v)[r.toFin] = v := by simp
    refine ⟨fun q => ?_, ?_, ?_, fun _ => ⟨fun q => ?_, ?_⟩, fun hn => absurd hact hn⟩
    · exact (congrArg (·.reqw[q]) hw).trans (hreqw q)
    · exact (congrArg (·.visible) hw).trans h
    · exact congrArg (·.active) hw
    · refine (congrArg (·.bank[q]) hw).trans ((Mapper.install_bank ..).trans ?_)
      simp only [hown, eq_comm]
    · refine (congrArg (·.hwm) hw).trans ?_
      simp only [Mapper.install, hown]
  · rw [if_neg hact] at hw
    refine ⟨fun q => ?_, ?_, ?_, fun hp => absurd hp hact, fun _ => ?_⟩
    · exact (congrArg (·.reqw[q]) hw).trans (hreqw q)
    · exact (congrArg (·.visible) hw).trans h
    · exact congrArg (·.active) hw
    · exact ⟨congrArg (·.bank) hw, congrArg (·.hwm) hw⟩

/-- A store to the register window of any width is a write of the whole register, the other half as it was. -/
theorem store_mapperRegs_eq {s t : State} {a v : Word} (htag : s.tagAt a = .mapperRegs)
    (h : t = s.writeWord a v ∨
      (t = s.writeByte a (hiByte v) ∧ a.getLsbD 0 = false ∧ loByte v = loByte (s.mapper.reqOf (pageOf a))) ∨
      (t = s.writeByte a (loByte v) ∧ a.getLsbD 0 = true ∧ hiByte v = hiByte (s.mapper.reqOf (pageOf a)))) :
    t = { s with
      mapper := s.mapper.pageWrite s.md (pageOf a) v
      cycles := s.cycles + storePenalty s .mapperRegs } := by
  have hc : isCollaborator (s.tagAt a) = false := by rw [htag]; rfl
  have htime : storeTime s .mapperRegs true = s.addCycles (storePenalty s .mapperRegs) := storeTime_of_data s _
  have hpage : (s.peek a).isSome = true := by simp only [State.peek, State.home, htag, State.homeByte]; rfl
  have hbyte (b : Byte) : s.writeByte a b = (s.addCycles (storePenalty s .mapperRegs)).handleByte a b := by
    rw [writeByte_eq_handle hc, hpage, htag, htime]
  obtain rfl | ⟨rfl, heven, hlo⟩ | ⟨rfl, hodd, hhi⟩ := h
  · have hword : (s.peekWord (evenAddr a)).isSome = true := by
      rw [peekWord_mapperRegs ((tagAt_evenAddr s a).trans htag)]; rfl
    rw [writeWord_eq_handle hc, hword, htag, htime]
    simp only [State.handleWord, tagAt_addCycles, tagAt_evenAddr, htag, pageOf_evenAddr]
    rfl
  · rw [hbyte]
    simp only [State.handleByte, tagAt_addCycles, htag, heven, addCycles_mapper, addCycles_md, ← hlo, joinBytes_hi_lo]
    rfl
  · rw [hbyte]
    simp only [State.handleByte, tagAt_addCycles, htag, hodd, if_true, addCycles_mapper, addCycles_md, ← hhi,
      joinBytes_hi_lo]
    rfl

/-- Settles O17: every form of store to the window is `pageWrite` with the register's new word. -/
theorem pageRegisterStores : Obligations.PageRegisterStores := by
  intro s a t v r old htag h
  have hr : (pageOf a).toFin = r := by
    apply Fin.ext
    simp [r, pageOf_eq_ofNat]
  have hold : s.mapper.reqOf (pageOf a) = old :=
    congrArg (fun q : Fin 16 => s.mapper.reqw[q]) hr
  have ht := store_mapperRegs_eq htag (hold ▸ h)
  have hm : t.mapper = s.mapper.pageWrite s.md (pageOf a) v := by rw [ht]
  refine ⟨hm ▸ ht, fun hvis => ?_, fun hvis => ?_⟩
  · rw [hm, mapper_pageWrite_of_hidden hvis]
  · rw [hm, ← hr]
    exact mapper_pageWrite_fields hvis s.md (pageOf a) v

/-! ### Collaborators (R121) -/

theorem react_eq_reacts (s : State) : s.react = reacts s s.devInputs := by
  rw [State.react]
  cases h : s.devInputs with
  | nil => rfl
  | cons r rest => cases r <;> rfl

theorem handle_of_collaborator {s : State} {a : Word} (h : isCollaborator (s.tagAt a) = true) (b : Byte) (v : Word) :
    s.handleByte a b = s.devWrite (s.tagAt a) a 1 (zextByte b) ∧ s.handleWord a v = s.devWrite (s.tagAt a) a 2 v := by
  simp only [State.handleByte, State.handleWord]
  cases htag : s.tagAt a with
  | sound | speech | vdpRd | vdpWr | grom | dsr | disk => exact ⟨rfl, rfl⟩
  | consoleRom | scratch | expRam | cartBanked | cartPlain | mapperRegs | unused => simp [htag, isCollaborator] at h

theorem zextByte_eq_ofNat (b : Byte) : zextByte b = BitVec.ofNat 16 b.toNat := by
  apply BitVec.eq_of_toNat_eq
  have hlt := b.isLt
  simp [zextByte]

/-- Settles O21: the penalty, the record and the reaction, in this order, and a read's free value last. -/
theorem collaboratorAccess : Obligations.CollaboratorAccess := by
  intro s a hc t logged
  have hlogged (e : Event) : ((s.chargeBus t).log e).react = reacts (logged e) s.devInputs := by
    rw [react_eq_reacts, chargeBus_penalty]
    rfl
  refine ⟨?readByte, fun heven => ?readWord, fun hrbw => ⟨fun v => ?writeByte, fun heven v => ?writeWord⟩⟩
  case readByte =>
    simp only [State.readByte, peek_of_port (.inl hc), hc, if_true]
    rw [hlogged]
  case readWord =>
    have hp : s.peekWord a = none := peekWord_of_peek_none (peek_of_port (.inl hc))
    simp only [State.readWord, evenAddr_of_even heven, hp, hc, if_true]
    rw [hlogged]
  case writeByte =>
    have hcharged : isCollaborator ((s.chargeBus t).tagAt a) = true := (tagAt_chargeBus ..).symm ▸ hc
    simp only [State.writeByte, hrbw, Bool.false_eq_true, if_false]
    rw [(handle_of_collaborator hcharged v 0).1, State.devWrite, tagAt_chargeBus, hlogged, zextByte_eq_ofNat]
  case writeWord =>
    have hcharged : isCollaborator ((s.chargeBus t).tagAt a) = true := (tagAt_chargeBus ..).symm ▸ hc
    simp only [State.writeWord, hrbw, Bool.false_eq_true, if_false, evenAddr_of_even heven]
    rw [(handle_of_collaborator hcharged 0 v).2, State.devWrite, tagAt_chargeBus, hlogged]

end Sys2Proof.Claims
end

section
/-! PROOFS. Effective addresses and context switches (40_operands.md R201, 60_exceptions.md R410, 46_immediate_control.md R374):
words stored in RAM at different offsets of one workspace do not touch each other, and stay until the return reads them. -/

namespace Sys2Proof.Claims

open Sys2Proof.Machine

/-! ## Register addresses (10_state.md R51) -/

theorem even_add {a b : Word} (ha : a.getLsbD 0 = false) (hb : b.getLsbD 0 = false) : (a + b).getLsbD 0 = false := by
  rw [even_iff] at *
  rw [BitVec.toNat_add]
  omega

theorem regAddr_eq_add (s : State) (i : Nat) : regAddr s i = s.wp + BitVec.ofNat 16 (2 * i) :=
  (ra_eq_regAddr (t := s) rfl i).symm

theorem even_regAddr {s : State} (h : s.wp.getLsbD 0 = false) (i : Nat) : (regAddr s i).getLsbD 0 = false := by
  rw [regAddr_eq_add]
  refine even_add h ?_
  rw [even_iff, BitVec.toNat_ofNat]
  omega

/-! ## Effective addresses (R201) -/

theorem ea_ind (s : State) (n : Reg) (size : Size) : s.ea (.ind n) size = s.readWord (regAddr s n.toNat) :=
  readReg_eq_readWord rfl _

theorem ea_idx (s : State) (n : Reg) (size : Size) :
    s.ea (.idx n) size =
      (s.fetch.1 + (s.fetch.2.readWord (regAddr s n.toNat)).1, (s.fetch.2.readWord (regAddr s n.toNat)).2) := by
  rw [← readReg_eq_readWord (s := s) (by simp)]
  rfl

theorem ea_inc (s : State) (n : Reg) (size : Size) :
    let x := s.readWord (regAddr s n.toNat)
    s.ea (.inc n) size = (x.1, x.2.writeWord (regAddr s n.toNat) (x.1 + size.step)) := by
  intro x
  have hx : s.readReg n.toNat = x := readReg_eq_readWord rfl _
  rw [← writeReg_eq_writeWord (s := s) (by simp [x]), ← hx]
  rfl

theorem readWord_of_peek_even {s : State} {a v : Word} (heven : a.getLsbD 0 = false) (h : s.peekWord a = some v) :
    (s.readWord a).1 = v := by
  rw [readWord_of_peek (v := v) (by rwa [evenAddr_of_even heven])]

theorem Ram.of_sameMem {s t : State} {a : Word} (h : Ram s a) (hm : s.SameMem t) : Ram t a := by
  rw [Ram, hm.tagAt]
  exact h

/-- Settles O13: each mode unfolded once; where the words read hold data, the reads answer them, and a register in RAM keeps
what the autoincrement stores. -/
theorem effectiveAddress : Obligations.EffectiveAddress := by
  intro s n size ra step
  have hstep : step = size.step := by cases size <;> rfl
  refine ⟨?reg, ea_ind s n size, rfl, ea_idx s n size, ?inc, fun ext x hinv hext hx => ?data⟩
  case reg => rw [State.ea, ra_eq_regAddr rfl]
  case inc => rw [hstep]; exact ea_inc s n size
  case data =>
    have hra : ra.getLsbD 0 = false := even_regAddr hinv.wpEven _
    have hreg : (s.readWord ra).1 = x := readWord_of_peek_even hra hx
    have hfetch : s.fetch.1 = ext := readWord_of_peek_even hinv.pcEven hext
    have hpc : s.fetch.2.pc = s.pc + 2 := (fetch_pc s).trans (evenAddr_add_two hinv.pcEven)
    have hregAfter : (s.fetch.2.readWord ra).1 = x :=
      readWord_of_peek_even hra (((sameMem_fetch s).peekWord ra).trans hx)
    refine ⟨(congrArg Prod.fst (ea_ind s n size)).trans hreg, hfetch, hpc, ?_, ?_, ?_, fun hram => ?_⟩
    · rw [ea_idx, hfetch, hregAfter]
    · rw [ea_idx, readWord_pc, hpc]
    · rw [ea_inc, hreg]
    · have hread := hinv.readWord ra
      have hram' : Ram (s.readWord ra).2 (evenAddr ra) := by
        rw [evenAddr_of_even hra]
        exact hram.of_sameMem (sameMem_readWord s ra)
      have hstored := peekWord_writeWord_ram hread.scratchWf hread.poolWf hram' (x + step)
      rw [evenAddr_of_even hra] at hstored
      rw [ea_inc, hreg, ← hstep]
      exact hstored

/-! ## Words of RAM apart from each other (20_memory.md R116, R117) -/

/-- Scratchpad and pool are both laid out so that addresses that differ modulo 256 are different bytes. -/
theorem home_mod_ne {s : State} {a b : Word} (ha : Ram s a) (hb : Ram s b) (hne : a.toNat % 256 ≠ b.toNat % 256) :
    s.home a ≠ s.home b := by
  obtain ha | ha := home_ram ha <;> obtain hb | hb := home_ram hb <;> rw [ha, hb]
  · simpa using hne
  · simp
  · simp
  · simp only [ne_eq, Home.pool.injEq]
    omega

theorem toNat_even_succ {a : Word} (h : a.getLsbD 0 = false) : (a + 1).toNat = a.toNat + 1 := by
  have heven := (even_iff a).mp h
  have hsucc := toNat_evenAddr_succ a
  rw [evenAddr_of_even h] at hsucc
  omega

/-- A word of RAM is not touched by a store to a word at another offset modulo 256. -/
theorem peekWord_writeWord_apart {s : State} {a b : Word} (hs : s.scratch.wf) (hp : s.pool.wf) (ha : Ram s a) (hb : Ram s b)
    (haeven : a.getLsbD 0 = false) (hbeven : b.getLsbD 0 = false) (hne : a.toNat % 256 ≠ b.toNat % 256) (v : Word) :
    (s.writeWord a v).peekWord b = s.peekWord b := by
  have ha1 := ramAt_succ haeven ha
  have hb1 := ramAt_succ hbeven hb
  have hae := (even_iff a).mp haeven
  have hbe := (even_iff b).mp hbeven
  have hkeep (c : Word) (hc : Ram s c) (h0 : c.toNat % 256 ≠ a.toNat % 256) (h1 : c.toNat % 256 ≠ (a.toNat + 1) % 256) :
      (s.writeWord a v).peek c = s.peek c := by
    have hne0 : s.home c ≠ s.home a := home_mod_ne hc ha h0
    have hne1 : s.home c ≠ s.home (a + 1) := home_mod_ne hc ha1 (by rwa [toNat_even_succ haeven])
    rw [peek_writeWord_ram hs hp (by rwa [evenAddr_of_even haeven]), evenAddr_of_even haeven, if_neg hne1, if_neg hne0]
  have hlo : (s.writeWord a v).peek (b + 1) = s.peek (b + 1) :=
    hkeep _ hb1 (by rw [toNat_even_succ hbeven]; omega) (by rw [toNat_even_succ hbeven]; omega)
  rw [State.peekWord, State.peekWord, hkeep b hb hne.symm (by omega), hlo]

/-- Nothing differs but time and the contents of RAM. -/
def RamOnly (s t : State) : Prop :=
  ∃ (n : Nat) (pool scratch : Memory), t = { s with cycles := n, pool := pool, scratch := scratch }

theorem RamOnly.refl (s : State) : RamOnly s s := ⟨_, _, _, rfl⟩

theorem RamOnly.trans {s t u : State} (h : RamOnly s t) (k : RamOnly t u) : RamOnly s u := by
  obtain ⟨_, _, _, rfl⟩ := h
  obtain ⟨_, _, _, rfl⟩ := k
  exact ⟨_, _, _, rfl⟩

theorem RamOnly.ram_iff {s t : State} (h : RamOnly s t) (a : Word) : Ram t a ↔ Ram s a := by
  obtain ⟨_, _, _, rfl⟩ := h
  exact Iff.rfl

theorem RamOnly.home {s t : State} (h : RamOnly s t) (a : Word) : t.home a = s.home a := by
  obtain ⟨_, _, _, rfl⟩ := h
  rfl

theorem ramOnly_writeWord {s : State} {a : Word} (heven : a.getLsbD 0 = false) (h : Ram s a) (v : Word) :
    RamOnly s (s.writeWord a v) := ⟨_, _, _, writeWord_ram_eq (by rwa [evenAddr_of_even heven]) v⟩

theorem wf_writeWord_ram {s : State} {a : Word} (hs : s.scratch.wf) (hp : s.pool.wf) (heven : a.getLsbD 0 = false)
    (h : Ram s a) (v : Word) : (s.writeWord a v).scratch.wf ∧ (s.writeWord a v).pool.wf := by
  rw [writeWord_ram (by rwa [evenAddr_of_even heven]), chargeStore_penalty]
  obtain ⟨hs1, hp1⟩ := storeHome_wf (s := s.addCycles _) (s.home (evenAddr a)) (hiByte v) hs hp
  exact storeHome_wf _ _ hs1 hp1

theorem peekWord_writeWord_self {s : State} {a : Word} (hs : s.scratch.wf) (hp : s.pool.wf) (heven : a.getLsbD 0 = false)
    (ha : Ram s a) (v : Word) : (s.writeWord a v).peekWord a = some v := by
  have h := peekWord_writeWord_ram hs hp (a := a) (by rwa [evenAddr_of_even heven]) v
  rwa [evenAddr_of_even heven] at h

theorem peek_writeWord_of_ne {s : State} {a b : Word} (hs : s.scratch.wf) (hp : s.pool.wf) (heven : a.getLsbD 0 = false)
    (ha : Ram s a) (v : Word) (h0 : s.home a ≠ s.home b) (h1 : s.home (a + 1) ≠ s.home b) :
    (s.writeWord a v).peek b = s.peek b := by
  rw [peek_writeWord_ram hs hp (by rwa [evenAddr_of_even heven]), evenAddr_of_even heven, if_neg h1.symm,
    if_neg h0.symm]

/-! ## Words stored one after another -/

/-- The words of `l` stored at their addresses, in order. -/
def storeWords (s : State) : List (Word × Word) → State
  | [] => s
  | p :: l => storeWords (s.writeWord p.1 p.2) l

/-- A word's address is even and in RAM. -/
def RamWord (s : State) (a : Word) : Prop := a.getLsbD 0 = false ∧ Ram s a

/-- Two words at different offsets modulo 256. -/
def Apart (a b : Word) : Prop := a.toNat % 256 ≠ b.toNat % 256

theorem RamWord.after_writeWord {s : State} {a b : Word} (hb : RamWord s b) (ha : RamWord s a) (v : Word) :
    RamWord (s.writeWord a v) b := ⟨hb.1, ((ramOnly_writeWord ha.1 ha.2 v).ram_iff b).mpr hb.2⟩

theorem ramOnly_storeWords {l : List (Word × Word)} {s : State} (hl : ∀ p ∈ l, RamWord s p.1) :
    RamOnly s (storeWords s l) := by
  induction l generalizing s with
  | nil => exact .refl s
  | cons p l ih =>
    obtain ⟨hp, hl⟩ := List.forall_mem_cons.mp hl
    exact (ramOnly_writeWord hp.1 hp.2 p.2).trans (ih fun q hq => (hl q hq).after_writeWord hp p.2)

theorem peekWord_storeWords_apart {l : List (Word × Word)} {s : State} (hs : s.scratch.wf) (hp : s.pool.wf)
    (hl : ∀ p ∈ l, RamWord s p.1) {c : Word} (hc : RamWord s c) (hapart : ∀ p ∈ l, Apart c p.1) :
    (storeWords s l).peekWord c = s.peekWord c := by
  induction l generalizing s with
  | nil => rfl
  | cons p l ih =>
    obtain ⟨hp', hl⟩ := List.forall_mem_cons.mp hl
    obtain ⟨hcp, hcl⟩ := List.forall_mem_cons.mp hapart
    obtain ⟨hs1, hp1⟩ := wf_writeWord_ram hs hp hp'.1 hp'.2 p.2
    exact (ih hs1 hp1 (fun q hq => (hl q hq).after_writeWord hp' p.2) (hc.after_writeWord hp' p.2) hcl).trans
      (peekWord_writeWord_apart hs hp hp'.2 hc.2 hp'.1 hc.1 hcp.symm p.2)

/-- Words stored apart from each other all read back. -/
theorem peekWord_storeWords_mem {l : List (Word × Word)} {s : State} (hs : s.scratch.wf) (hp : s.pool.wf)
    (hl : ∀ p ∈ l, RamWord s p.1) (hapart : l.Pairwise fun p q => Apart p.1 q.1) :
    ∀ p ∈ l, (storeWords s l).peekWord p.1 = some p.2 := by
  induction l generalizing s with
  | nil => exact nofun
  | cons p l ih =>
    obtain ⟨hp', hl⟩ := List.forall_mem_cons.mp hl
    obtain ⟨hfirst, hrest⟩ := List.pairwise_cons.mp hapart
    obtain ⟨hs1, hp1⟩ := wf_writeWord_ram hs hp hp'.1 hp'.2 p.2
    have hl1 (q : Word × Word) (hq : q ∈ l) := (hl q hq).after_writeWord hp' p.2
    refine List.forall_mem_cons.mpr ⟨?_, ih hs1 hp1 hl1 hrest⟩
    exact (peekWord_storeWords_apart hs1 hp1 hl1 (hp'.after_writeWord hp' p.2) hfirst).trans
      (peekWord_writeWord_self hs hp hp'.1 hp'.2 p.2)

theorem peek_storeWords_of_ne {l : List (Word × Word)} {s : State} (hs : s.scratch.wf) (hp : s.pool.wf)
    (hl : ∀ p ∈ l, RamWord s p.1) {b : Word}
    (hb : ∀ p ∈ l, s.home p.1 ≠ s.home b ∧ s.home (p.1 + 1) ≠ s.home b) : (storeWords s l).peek b = s.peek b := by
  induction l generalizing s with
  | nil => rfl
  | cons p l ih =>
    obtain ⟨hp', hl⟩ := List.forall_mem_cons.mp hl
    obtain ⟨hbp, hbl⟩ := List.forall_mem_cons.mp hb
    obtain ⟨hs1, hp1⟩ := wf_writeWord_ram hs hp hp'.1 hp'.2 p.2
    have hhome := (ramOnly_writeWord hp'.1 hp'.2 p.2).home
    exact (ih hs1 hp1 (fun q hq => (hl q hq).after_writeWord hp' p.2)
      (fun q hq => by simp only [hhome]; exact hbl q hq)).trans
      (peek_writeWord_of_ne hs hp hp'.1 hp'.2 p.2 hbp.1 hbp.2)

/-! ## The three saves (60_exceptions.md R410) -/

/-- The words of a saved context, in the order they are stored. -/
def contextWords (wp owp opc ost : Word) : List (Word × Word) := [(wp + 26, owp), (wp + 28, opc), (wp + 30, ost)]

theorem saveContext_eq_storeWords (s : State) (wp owp opc ost : Word) :
    saveContext s wp owp opc ost = storeWords s (contextWords wp owp opc ost) := rfl

theorem workspace_offset {wp k : Word} {n : Nat} (h : wp.getLsbD 0 = false) (hk : k.toNat = n) (hn : n % 2 = 0) :
    (wp + k).getLsbD 0 = false ∧ (wp + k).toNat % 256 = (wp.toNat + n) % 256 := by
  subst hk
  refine ⟨even_add h ((even_iff k).mpr hn), ?_⟩
  rw [BitVec.toNat_add]
  omega

/-- R13, R14 and R15 of the new workspace lie apart. -/
theorem contextWords_apart {wp : Word} (h : wp.getLsbD 0 = false) (owp opc ost : Word) :
    (contextWords wp owp opc ost).Pairwise fun p q => Apart p.1 q.1 := by
  have h26 := (workspace_offset h (k := 26) (n := 26) rfl rfl).2
  have h28 := (workspace_offset h (k := 28) (n := 28) rfl rfl).2
  have h30 := (workspace_offset h (k := 30) (n := 30) rfl rfl).2
  simp only [contextWords, List.pairwise_cons, List.mem_cons, List.not_mem_nil, or_false, forall_eq_or_imp, forall_eq,
    Apart, List.Pairwise.nil, and_true, h26, h28, h30, IsEmpty.forall_iff, implies_true]
  omega

theorem contextWords_ram {s : State} {wp : Word} (h : wp.getLsbD 0 = false) (h26 : Ram s (wp + 26)) (h28 : Ram s (wp + 28))
    (h30 : Ram s (wp + 30)) (owp opc ost : Word) : ∀ p ∈ contextWords wp owp opc ost, RamWord s p.1 := by
  simp only [contextWords, List.forall_mem_cons]
  exact ⟨⟨(workspace_offset h rfl rfl).1, h26⟩, ⟨(workspace_offset h rfl rfl).1, h28⟩,
    ⟨(workspace_offset h rfl rfl).1, h30⟩, nofun⟩

/-- The saved words are the stores of the statement. -/
theorem wordBytesAt_mem_contextStores {nwp owp opc ost : Word} {p : Word × Word}
    (hp : p ∈ contextWords (evenAddr nwp) owp opc ost) : ∀ a ∈ wordBytesAt p.1, a ∈ contextStores nwp := by
  intro a ha
  simp only [contextWords, List.mem_cons, List.not_mem_nil, or_false] at hp
  simp only [contextStores, List.mem_append]
  obtain rfl | rfl | rfl := hp
  · exact .inl (.inl ha)
  · exact .inl (.inr ha)
  · exact .inr ha

theorem sameMem_setWp (s : State) (v : Word) : s.SameMem (s.setWp v) := ⟨rfl, rfl, rfl, rfl, rfl, rfl⟩

theorem sameMem_setPc (s : State) (v : Word) : s.SameMem (s.setPc v) := ⟨rfl, rfl, rfl, rfl, rfl, rfl⟩

/-- Settles O27: the switch is the three saves in the new workspace, and loading WP and PC touches no memory. -/
theorem contextSwitchSaves : Obligations.ContextSwitchSaves := by
  intro s nwp npc hinv wp h26 h28 h30 t
  have ht : t = (saveContext (s.setWp nwp) wp s.wp s.pc s.st).setPc npc := contextSwitch_eq s nwp npc
  have hwp : wp.getLsbD 0 = false := evenAddr_bit0 nwp
  have hl := contextWords_ram (s := s.setWp nwp) hwp h26 h28 h30 s.wp s.pc s.st
  have hback := peekWord_storeWords_mem (s := s.setWp nwp) hinv.scratchWf hinv.poolWf hl
    (contextWords_apart hwp s.wp s.pc s.st)
  have hpc := sameMem_setPc (saveContext (s.setWp nwp) wp s.wp s.pc s.st) npc
  obtain ⟨n, pool, scratch, heq⟩ := ramOnly_storeWords hl
  rw [← saveContext_eq_storeWords] at hback heq
  rw [ht]
  refine ⟨?newWp, rfl, ?sameSt, ?r13, ?r14, ?r15, fun b hb => ?others, ?mapper, ?io, ?events, ?run⟩
  case r13 => exact (hpc.peekWord _).trans (hback (wp + 26, s.wp) (by simp [contextWords]))
  case r14 => exact (hpc.peekWord _).trans (hback (wp + 28, s.pc) (by simp [contextWords]))
  case r15 => exact (hpc.peekWord _).trans (hback (wp + 30, s.st) (by simp [contextWords]))
  case others =>
    rw [hpc.peek, saveContext_eq_storeWords]
    refine peek_storeWords_of_ne (s := s.setWp nwp) hinv.scratchWf hinv.poolWf hl fun p hp => ?_
    have hstores := wordBytesAt_mem_contextStores hp
    simp only [wordBytesAt, evenAddr_of_even (hl p hp).1, List.forall_mem_cons] at hstores
    exact ⟨hb _ hstores.1, hb _ hstores.2.1⟩
  all_goals rw [heq]; rfl

/-! ## The return (46_immediate_control.md R374) -/

/-- The return loads what the workspace's R13 to R15 hold. -/
theorem returnContext_of_saved {t : State} {owp opc ost : Word} (hwp : t.wp.getLsbD 0 = false)
    (h13 : t.peekWord (t.wp + 26) = some owp) (h14 : t.peekWord (t.wp + 28) = some opc)
    (h15 : t.peekWord (t.wp + 30) = some ost) :
    t.returnContext.pc = evenAddr opc ∧ t.returnContext.wp = evenAddr owp ∧ t.returnContext.st = ost &&& stMask := by
  obtain ⟨nst, hnst⟩ : ∃ r, r = t.readWord (regAddr t 15) := ⟨_, rfl⟩
  obtain ⟨npc, hnpc⟩ : ∃ r, r = nst.2.readWord (regAddr t 14) := ⟨_, rfl⟩
  have hret : t.returnContext =
      (((npc.2.readWord (regAddr t 13)).2.setSt (nst.1 &&& stMask)).setPc npc.1).setWp
        (npc.2.readWord (regAddr t 13)).1 := by
    rw [returnContext_eq, hnpc, hnst]
  have hm : t.SameMem nst.2 := hnst ▸ sameMem_readWord t _
  have hm' : t.SameMem npc.2 := hm.trans (hnpc ▸ sameMem_readWord nst.2 _)
  have hst : nst.1 = ost := by
    rw [hnst]
    exact readWord_of_peek_even (even_regAddr hwp 15) (by rw [regAddr_eq_add]; exact h15)
  have hpc : npc.1 = opc := by
    rw [hnpc]
    exact readWord_of_peek_even (even_regAddr hwp 14) (by rw [hm.peekWord, regAddr_eq_add]; exact h14)
  have hw : (npc.2.readWord (regAddr t 13)).1 = owp :=
    readWord_of_peek_even (even_regAddr hwp 13) (by rw [hm'.peekWord, regAddr_eq_add]; exact h13)
  rw [hret, hst, hpc, hw]
  exact ⟨rfl, rfl, rfl⟩

/-- A state from which the return gives PC, WP and ST of `s` back. -/
structure Saved (s t : State) : Prop where
  wpEven : t.wp.getLsbD 0 = false
  r13 : t.peekWord (t.wp + 26) = some s.wp
  r14 : t.peekWord (t.wp + 28) = some s.pc
  r15 : t.peekWord (t.wp + 30) = some s.st

theorem Saved.returns {s t : State} (h : Saved s t) (hs : s.Inv) :
    t.returnContext.pc = s.pc ∧ t.returnContext.wp = s.wp ∧ t.returnContext.st = s.st := by
  obtain ⟨hpc, hwp, hst⟩ := returnContext_of_saved h.wpEven h.r13 h.r14 h.r15
  rw [hpc, hwp, hst, evenAddr_of_even hs.pcEven, evenAddr_of_even hs.wpEven, stMask_of_reserved hs.stReserved]
  exact ⟨rfl, rfl, rfl⟩

/-- What keeps memory and WP keeps a saved context. -/
theorem Saved.of_sameMem {s t u : State} (h : Saved s t) (hm : t.SameMem u) (hwp : u.wp = t.wp) : Saved s u :=
  ⟨hwp ▸ h.wpEven, by rw [hwp, hm.peekWord, h.r13], by rw [hwp, hm.peekWord, h.r14], by rw [hwp, hm.peekWord, h.r15]⟩

/-- Stores do not move tags, so RAM after the switch was RAM before it. -/
theorem ram_contextSwitch (s : State) (nwp npc a : Word) : Ram (s.contextSwitch nwp npc) a ↔ Ram s a := by
  have htag : (s.contextSwitch nwp npc).tagAt a = s.tagAt a := by
    simp [State.contextSwitch, State.tagAt]
  rw [Ram, Ram, htag]

theorem contextSwitch_wp (s : State) (nwp npc : Word) : (s.contextSwitch nwp npc).wp = evenAddr nwp := by
  simp [State.contextSwitch]

theorem saved_contextSwitch {s : State} (h : s.Inv) (nwp npc : Word) (h26 : Ram s (evenAddr nwp + 26))
    (h28 : Ram s (evenAddr nwp + 28)) (h30 : Ram s (evenAddr nwp + 30)) : Saved s (s.contextSwitch nwp npc) := by
  obtain ⟨hwp, -, -, h13, h14, h15, -⟩ := contextSwitchSaves s nwp npc h h26 h28 h30
  exact ⟨hwp ▸ evenAddr_bit0 nwp, hwp ▸ h13, hwp ▸ h14, hwp ▸ h15⟩

/-! ## Stores that change no memory (20_memory.md R115, R119, R121) -/

/-- A store here changes no byte and no bank: it is no RAM, no page register and no banked cartridge. -/
def Inert (s : State) (a : Word) : Prop := ¬ Ram s a ∧ ¬ Selector s a

theorem Inert.of_sameMem {s t : State} {a : Word} (h : Inert s a) (hm : s.SameMem t) : Inert t a := by
  rw [Inert, Ram, Selector, hm.tagAt]
  exact h

theorem sameMem_log (s : State) (e : Event) : s.SameMem (s.log e) := ⟨rfl, rfl, rfl, rfl, rfl, rfl⟩

theorem sameMem_devWrite (s : State) (t : RegionTag) (a : Word) (n : Nat) (v : Word) : s.SameMem (s.devWrite t a n v) :=
  (sameMem_log s _).trans (sameMem_react (s.log (.devWrite t a n v)))

theorem sameMem_handle_of_inert {s : State} {a : Word} (h : Inert s a) (b : Byte) (v : Word) :
    s.SameMem (s.handleByte a b) ∧ s.SameMem (s.handleWord a v) := by
  simp only [State.handleByte, State.handleWord]
  cases htag : s.tagAt a with
  | consoleRom | cartPlain | unused => exact ⟨.refl s, .refl s⟩
  | sound | speech | vdpRd | vdpWr | grom | dsr | disk => exact ⟨sameMem_devWrite .., sameMem_devWrite ..⟩
  | scratch => exact absurd (.inl htag) h.1
  | expRam => exact absurd (.inr htag) h.1
  | mapperRegs => exact absurd (.inl htag) h.2
  | cartBanked => exact absurd (.inr htag) h.2

/-- Before its handler a store has read at most (R106). -/
theorem sameMem_before_handle {s u : State} (h : s.SameMem u) (b : Bool) (t : RegionTag) :
    s.SameMem ((if b then u else s).chargeBus t) := by
  cases b
  · exact sameMem_chargeBus s t
  · exact h.trans (sameMem_chargeBus u t)

theorem sameMem_writeByte_of_inert {s : State} {a : Word} (h : Inert s a) (v : Byte) : s.SameMem (s.writeByte a v) := by
  have hpre := sameMem_before_handle (sameMem_readByte s a) s.md.readBeforeWrite
    ((if s.md.readBeforeWrite then (s.readByte a).2 else s).tagAt a)
  exact hpre.trans (sameMem_handle_of_inert (h.of_sameMem hpre) v 0).1

theorem sameMem_writeWord_of_inert {s : State} {a : Word} (h : Inert s (evenAddr a)) (v : Word) :
    s.SameMem (s.writeWord a v) := by
  have hpre := sameMem_before_handle (sameMem_readWord s a) s.md.readBeforeWrite
    ((if s.md.readBeforeWrite then (s.readWord a).2 else s).tagAt (evenAddr a))
  exact hpre.trans (sameMem_handle_of_inert (h.of_sameMem hpre) 0 v).2

/-! ## A switch and its return (R330, R263, R374, R419) -/

/-- RAM does not depend on the cartridge's bank. -/
theorem peek_ram_setCartBank {s t : State} {n d bank : Nat} {b : Word}
    (ht : t = { s with cartBank := bank, cycles := n, draws := d }) (hb : Ram s b) : t.peek b = s.peek b := by
  subst ht
  obtain hb | hb := hb
  all_goals
    simp only [State.tagAt] at hb
    simp only [State.peek, State.home, State.tagAt, hb]
    rfl

/-- A store to a word that is no page register leaves the words of RAM that lie apart from it. -/
theorem peekWord_writeWord_elsewhere {s : State} {a b : Word} (hs : s.scratch.wf) (hp : s.pool.wf)
    (ha : a.getLsbD 0 = false) (hb : RamWord s b) (hne : Apart a b) (htag : s.tagAt a ≠ .mapperRegs) (v : Word) :
    (s.writeWord a v).peekWord b = s.peekWord b := by
  by_cases hram : Ram s a
  · exact peekWord_writeWord_apart hs hp hram hb.2 ha hb.1 hne v
  · by_cases hcart : s.tagAt a = .cartBanked
    · have heq := ((romStores s a v 0).2.1 hcart).2
      simp only [State.peekWord, peek_ram_setCartBank heq hb.2, peek_ram_setCartBank heq (ramAt_succ hb.1 hb.2)]
    · refine (sameMem_writeWord_of_inert ?_ v).peekWord b
      rw [evenAddr_of_even ha]
      exact ⟨hram, not_or.mpr ⟨htag, hcart⟩⟩

/-- What the switch saved is saved in `t`, which keeps its memory and WP. -/
theorem saved_of_contextSwitch {u v t : State} {nwp npc : Word} (h : u.Inv) (hv : v = u.contextSwitch nwp npc)
    (hm : v.SameMem t) (hwp : t.wp = v.wp) (h26 : Ram t (t.wp + 26)) (h28 : Ram t (t.wp + 28))
    (h30 : Ram t (t.wp + 30)) : Saved u t := by
  subst hv
  have hnew : t.wp = evenAddr nwp := hwp.trans (contextSwitch_wp ..)
  have hram {a : Word} (ha : Ram t a) : Ram u a := by
    rw [← ram_contextSwitch u nwp npc, Ram, ← hm.tagAt]
    exact ha
  have hsaved := saved_contextSwitch h nwp npc (hnew ▸ hram h26) (hnew ▸ hram h28) (hnew ▸ hram h30)
  exact hsaved.of_sameMem hm hwp

theorem sameMem_setSt (s : State) (v : Word) : s.SameMem (s.setSt v) := ⟨rfl, rfl, rfl, rfl, rfl, rfl⟩

theorem sameMem_setNoIntCheck (s : State) (v : Bool) : s.SameMem (s.setNoIntCheck v) := ⟨rfl, rfl, rfl, rfl, rfl, rfl⟩

theorem sameMem_addCycles (s : State) (n : Nat) : s.SameMem (s.addCycles n) := ⟨rfl, rfl, rfl, rfl, rfl, rfl⟩

theorem sameMem_pay (s : State) (i : Instr) (o : CostOutcome) : s.SameMem (s.pay i o) := sameMem_addCycles s _

/-- XOP stores its operand's address in the new R11, which lies apart from the saved words. -/
theorem Saved.writeR11 {s t : State} (h : Saved s t) (ht : t.Inv) (h26 : Ram t (t.wp + 26)) (h28 : Ram t (t.wp + 28))
    (h30 : Ram t (t.wp + 30)) (htag : t.tagAt (t.wp + 22) ≠ .mapperRegs) (v : Word) :
    Saved s (t.writeWord (t.wp + 22) v) := by
  obtain ⟨e22, o22⟩ := workspace_offset h.wpEven (k := 22) (n := 22) rfl rfl
  obtain ⟨e26, o26⟩ := workspace_offset h.wpEven (k := 26) (n := 26) rfl rfl
  obtain ⟨e28, o28⟩ := workspace_offset h.wpEven (k := 28) (n := 28) rfl rfl
  obtain ⟨e30, o30⟩ := workspace_offset h.wpEven (k := 30) (n := 30) rfl rfl
  have hkeep {b : Word} (hb : RamWord t b) (hne : Apart (t.wp + 22) b) :
      (t.writeWord (t.wp + 22) v).peekWord b = t.peekWord b :=
    peekWord_writeWord_elsewhere ht.scratchWf ht.poolWf e22 hb hne htag v
  refine ⟨?_, ?_, ?_, ?_⟩ <;> rw [writeWord_wp]
  · exact h.wpEven
  · rw [hkeep ⟨e26, h26⟩ (by rw [Apart, o22, o26]; omega), h.r13]
  · rw [hkeep ⟨e28, h28⟩ (by rw [Apart, o22, o28]; omega), h.r14]
  · rw [hkeep ⟨e30, h30⟩ (by rw [Apart, o22, o30]; omega), h.r15]

theorem Saved.of_rtwp {s t u : State} (h : Saved s t) (hs : s.Inv) (hu : exec .rtwp t = .next u) :
    u.pc = s.pc ∧ u.wp = s.wp ∧ u.st = s.st := by
  rw [exec_rtwp] at hu
  cases hu
  exact h.returns hs

/-- Settles O28: the context was saved in the state with the operand resolved and the vector read, and nothing between the
switch and the return touches the three words. -/
theorem switchThenReturn : Obligations.SwitchThenReturn := by
  refine ⟨fun s t u g hinv ht h26 h28 h30 hu => ?blwp, fun s t u gs n hinv ht h26 h28 h30 htag hu => ?xop,
    fun s level hinv => ?interrupt⟩
  case blwp =>
    obtain ⟨nwp, hnwp⟩ : ∃ r, r = (s.ea g .word).2.readWord (s.ea g .word).1 := ⟨_, rfl⟩
    obtain ⟨npc, hnpc⟩ : ∃ r, r = nwp.2.readWord ((s.ea g .word).1 + 2) := ⟨_, rfl⟩
    obtain ⟨v, hv⟩ : ∃ v, v = npc.2.contextSwitch nwp.1 npc.1 := ⟨_, rfl⟩
    have hexec : exec (.blwp g) s = .next ((v.setNoIntCheck true).pay (.blwp g) .plain) := by
      rw [exec_blwp, hv, hnpc, hnwp]
    rw [hexec] at ht
    cases ht
    have hm : v.SameMem ((v.setNoIntCheck true).pay (.blwp g) .plain) :=
      (sameMem_setNoIntCheck v true).trans (sameMem_pay ..)
    have hi : npc.2.Inv := hnpc ▸ (hnwp ▸ (hinv.ea g .word).readWord _).readWord _
    have hsaved := saved_of_contextSwitch hi hv hm rfl h26 h28 h30
    obtain ⟨hpc, hwp, hst⟩ := hsaved.of_rtwp hi hu
    rw [hpc, hwp, hst, hnpc, hnwp]
    simp
  case xop =>
    obtain ⟨nwp, hnwp⟩ : ∃ r, r = (s.ea gs .word).2.readWord (BitVec.ofNat 16 (0x40 + 4 * n.toNat)) := ⟨_, rfl⟩
    obtain ⟨npc, hnpc⟩ : ∃ r, r = nwp.2.readWord (BitVec.ofNat 16 (0x40 + 4 * n.toNat) + 2) := ⟨_, rfl⟩
    obtain ⟨v, hv⟩ : ∃ v, v = npc.2.contextSwitch nwp.1 npc.1 := ⟨_, rfl⟩
    obtain ⟨w, hw⟩ : ∃ w, w = v.writeWord (v.wp + 22) (s.ea gs .word).1 := ⟨_, rfl⟩
    have hexec : exec (.xop gs n) s =
        .next (((w.setSt (setBit w.st bitX true)).setNoIntCheck true).pay (.xop gs n) .plain) := by
      rw [exec_xop, ← hnwp, ← hnpc, ← hv, hw]
      rfl
    rw [hexec] at ht
    cases ht
    have hm : w.SameMem (((w.setSt (setBit w.st bitX true)).setNoIntCheck true).pay (.xop gs n) .plain) :=
      ((sameMem_setSt w _).trans (sameMem_setNoIntCheck _ true)).trans (sameMem_pay ..)
    have hwp : w.wp = v.wp := hw ▸ writeWord_wp ..
    have htagv (a : Word) : w.tagAt a = v.tagAt a := by rw [hw]; simp [State.tagAt]
    have hramv {a : Word} (ha : Ram w a) : Ram v a := by
      rw [Ram, ← htagv]
      exact ha
    have hi : npc.2.Inv := hnpc ▸ (hnwp ▸ (hinv.ea gs .word).readWord _).readWord _
    have hvi : v.Inv := hv ▸ hi.contextSwitch _ _
    have h26v := hramv (a := v.wp + 26) (hwp ▸ h26)
    have h28v := hramv (a := v.wp + 28) (hwp ▸ h28)
    have h30v := hramv (a := v.wp + 30) (hwp ▸ h30)
    have hsaved : Saved npc.2 v := saved_of_contextSwitch hi hv (.refl v) rfl h26v h28v h30v
    have hr11 := hw ▸ hsaved.writeR11 hvi h26v h28v h30v (by rw [← htagv, ← hwp]; exact htag) (s.ea gs .word).1
    obtain ⟨hpc, hwp', hst⟩ := (hr11.of_sameMem hm rfl).of_rtwp hi hu
    rw [hpc, hwp', hst, hnpc, hnwp]
    simp
  case interrupt =>
    intro t h26 h28 h30
    obtain ⟨r, hr⟩ : ∃ r, r = s.readVector (BitVec.ofNat 16 (4 * level)) := ⟨_, rfl⟩
    have hentry := interruptEntry_of_contextSwitch (u := s) (level := level) rfl
    rw [← hr] at hentry
    have hi : r.2.Inv := hr ▸ hinv.readVector _
    obtain ⟨v, hv⟩ : ∃ v, v = r.2.contextSwitch r.1.1 r.1.2 := ⟨_, rfl⟩
    rw [← hv] at hentry
    have hm : v.SameMem (s.interruptEntry level) := by
      rw [hentry]
      exact ⟨rfl, rfl, rfl, rfl, rfl, rfl⟩
    have hwp' : (s.interruptEntry level).wp = v.wp := by rw [hentry]
    have hsaved := saved_of_contextSwitch hi hv hm hwp' h26 h28 h30
    obtain ⟨hpc, hwp, hst⟩ := hsaved.returns hi
    rw [hpc, hwp, hst, hr]
    simp

end Sys2Proof.Claims
end

section
/-! PROOFS. The CRU bus and the 9901 (20_memory.md R140, 60_exceptions.md R425 to R436, R450): which device an address
reaches, how one pin's lines move the reference count, and what each pin reads and writes. -/

namespace Sys2Proof.Machine

open Sys2Proof.Claims

/-! ## One pin's lines and the count (60_exceptions.md R425, R426) -/

theorem canRequest_iff (p : Nat) : canRequest p = true ↔ 1 ≤ p ∧ p ≤ 15 := by simp [canRequest]

/-- The count of active pins after a change of the lines of pin `p` alone. -/
theorem activePins_change {req en req' en' : BitVec 32} {p : Nat} (hp : canRequest p = true)
    (hother : ∀ q, q ≠ p → req'.getLsbD q = req.getLsbD q ∧ en'.getLsbD q = en.getLsbD q) :
    activePins req' en' + (req.getLsbD p && en.getLsbD p).toNat =
      activePins req en + (req'.getLsbD p && en'.getLsbD p).toNat := by
  have hsame (q : Nat) (hq : q ≠ p) : (req'.getLsbD q && en'.getLsbD q) = (req.getLsbD q && en.getLsbD q) := by
    rw [(hother q hq).1, (hother q hq).2]
  have hpin := (canRequest_iff p).mp hp
  cases hold : (req.getLsbD p && en.getLsbD p) <;> cases hnew : (req'.getLsbD p && en'.getLsbD p)
  case false.true => exact activePins_flip hpin hold hnew fun q hq => (hsame q hq).symm
  case true.false => exact (activePins_flip hpin hnew hold hsame).symm
  all_goals
    refine congrArg (· + _) (activePins_congr fun q _ _ => ?_)
    by_cases hq : q = p
    · rw [hq, hold, hnew]
    · exact hsame q hq

theorem getLsbD_setBit_self {v : BitVec 32} {p : Nat} (hp : canRequest p = true) (b : Bool) :
    (setBit v p b).getLsbD p = b := by
  rw [setBit_getLsbD, if_pos ⟨rfl, canRequest_lt hp⟩]

theorem getLsbD_setBit_other {w : Nat} (v : BitVec w) {p q : Nat} (hq : q ≠ p) (b : Bool) :
    (setBit v p b).getLsbD q = v.getLsbD q := by
  rw [setBit_getLsbD, if_neg fun h => hq h.1]

/-- Every enable and request is counted once. -/
def Controller.Counted (c : Controller) : Prop := c.intCount = activePins c.req c.en

theorem Controller.raise_of_not {c : Controller} {p : Nat} (h : canRequest p = false) : c.raise p = c := by
  simp [Controller.raise, h]

theorem Controller.clear_of_not {c : Controller} {p : Nat} (h : canRequest p = false ∨ c.req.getLsbD p = false) :
    c.clear p = c := by
  obtain h | h := h <;> simp [Controller.clear, h]

theorem Controller.raise_of_clear {c : Controller} {p : Nat} (hp : canRequest p = true) (hr : c.req.getLsbD p = false) :
    c.raise p =
      { c with req := setBit c.req p true, intCount := if c.en.getLsbD p then c.intCount + 1 else c.intCount } := by
  simp [Controller.raise, hp, hr]

theorem Controller.clear_of_req {c : Controller} {p : Nat} (hp : canRequest p = true) (hr : c.req.getLsbD p = true) :
    c.clear p =
      { c with req := setBit c.req p false, intCount := if c.en.getLsbD p then c.intCount - 1 else c.intCount } := by
  simp [Controller.clear, hp, hr]

theorem Controller.Counted.raise {c : Controller} (h : c.Counted) (p : Nat) : (c.raise p).Counted := by
  cases hp : canRequest p
  · rwa [Controller.raise_of_not hp]
  · cases hr : c.req.getLsbD p
    · rw [Controller.raise_of_clear hp hr]
      have hn := activePins_change (req := c.req) (en := c.en) (req' := setBit c.req p true) (en' := c.en) hp
        fun q hq => ⟨getLsbD_setBit_other _ hq _, rfl⟩
      rw [getLsbD_setBit_self hp, hr, ← show c.intCount = _ from h] at hn
      cases he : c.en.getLsbD p <;> simpa [Counted, he] using hn.symm
    · rwa [Controller.raise_of_req hr]

theorem Controller.Counted.clear {c : Controller} (h : c.Counted) (p : Nat) : (c.clear p).Counted := by
  cases hp : canRequest p
  · rwa [Controller.clear_of_not (.inl hp)]
  · cases hr : c.req.getLsbD p
    · rwa [Controller.clear_of_not (.inr hr)]
    · rw [Controller.clear_of_req hp hr]
      have hn := activePins_change (req := c.req) (en := c.en) (req' := setBit c.req p false) (en' := c.en) hp
        fun q hq => ⟨getLsbD_setBit_other _ hq _, rfl⟩
      rw [getLsbD_setBit_self hp, hr, ← show c.intCount = _ from h] at hn
      cases he : c.en.getLsbD p
      · simpa [Counted, he] using hn.symm
      · simp [he] at hn
        simp [Counted, ← hn]

theorem Controller.Counted.setEn {c : Controller} (h : c.Counted) (p : Nat) (b : Bool) : (c.setEn p b).Counted := by
  unfold Controller.setEn
  split
  case isFalse => exact h
  case isTrue hc =>
    obtain ⟨hp, hne⟩ := Bool.and_eq_true_iff.mp hc
    have hn := activePins_change (req := c.req) (en := c.en) (req' := c.req) (en' := setBit c.en p b) hp
      fun q hq => ⟨rfl, getLsbD_setBit_other _ hq _⟩
    rw [getLsbD_setBit_self hp, Bool.eq_not.mpr (bne_iff_ne.mp hne), ← show c.intCount = _ from h] at hn
    cases hr : c.req.getLsbD p
    · simpa [Counted, hr] using hn.symm
    · cases b
      · simp [hr] at hn
        simp [Counted, ← hn]
      · simpa [Counted, hr] using hn.symm

theorem Controller.raise_getLsbD (c : Controller) (p q : Nat) :
    (c.raise p).req.getLsbD q = (decide (q = p ∧ 1 ≤ p ∧ p ≤ 15) || c.req.getLsbD q) := by
  cases hp : canRequest p
  · have hno : ¬ (1 ≤ p ∧ p ≤ 15) := fun h => Bool.noConfusion (hp.symm.trans ((canRequest_iff p).mpr h))
    simp [Controller.raise_of_not hp, hno]
  · simp [Controller.raise_req hp, (canRequest_iff p).mp hp]

theorem Controller.clear_getLsbD (c : Controller) (p q : Nat) :
    (c.clear p).req.getLsbD q = (!decide (q = p ∧ 1 ≤ p ∧ p ≤ 15) && c.req.getLsbD q) := by
  cases hp : canRequest p
  · have hno : ¬ (1 ≤ p ∧ p ≤ 15) := fun h => Bool.noConfusion (hp.symm.trans ((canRequest_iff p).mpr h))
    simp [Controller.clear_of_not (.inl hp), hno]
  · cases hr : c.req.getLsbD p
    · rw [Controller.clear_of_not (.inr hr)]
      by_cases hqp : q = p <;> simp [hqp, hr]
    · rw [Controller.clear_of_req hp hr, setBit_getLsbD]
      by_cases hqp : q = p <;> simp [hqp, (canRequest_iff p).mp hp, canRequest_lt hp]

theorem Controller.setEn_getLsbD (c : Controller) (p : Nat) (b : Bool) {q : Nat} (hq : q < 32) :
    (c.setEn p b).en.getLsbD q = if q = p ∧ 1 ≤ p ∧ p ≤ 15 then b else c.en.getLsbD q := by
  simp only [← canRequest_iff]
  unfold Controller.setEn
  cases hp : canRequest p
  · simp
  · by_cases hb : c.en.getLsbD p = b
    · by_cases hqp : q = p <;> simp [hb, hqp]
    · rw [if_pos (by simpa using hb), setBit_getLsbD]
      simp only [hq, and_true]

theorem setBit_setBit_of_eq {w : Nat} {v : BitVec w} {p : Nat} {b : Bool} (h : v.getLsbD p = b) (b' : Bool) :
    setBit (setBit v p b') p b = v := by
  refine BitVec.eq_of_getLsbD_eq fun q hq => ?_
  by_cases hqp : q = p
  · rw [setBit_getLsbD, if_pos ⟨hqp, hq⟩, hqp, h]
  · rw [getLsbD_setBit_other _ hqp, getLsbD_setBit_other _ hqp]

/-- A Clear undoes a Raise, however often it was raised (R426). -/
theorem Controller.clear_raise (c : Controller) (p : Nat) : (c.raise p).clear p = c.clear p := by
  cases hp : canRequest p
  · rw [Controller.raise_of_not hp]
  · cases hr : c.req.getLsbD p
    · rw [Controller.clear_of_not (.inr hr), Controller.clear_of_req hp (by simp [Controller.raise_req hp]),
        Controller.raise_of_clear hp hr]
      cases he : c.en.getLsbD p <;> simp [setBit_setBit_of_eq hr]
    · rw [Controller.raise_of_req hr]

theorem Controller.raise_twice (c : Controller) (p : Nat) : (c.raise p).raise p = c.raise p := by
  cases hp : canRequest p
  · rw [Controller.raise_of_not hp, Controller.raise_of_not hp]
  · exact Controller.raise_raise hp

theorem activePins_pos_iff (req en : BitVec 32) :
    0 < activePins req en ↔ ∃ q, 1 ≤ q ∧ q ≤ 15 ∧ req.getLsbD q = true ∧ en.getLsbD q = true := by
  rw [activePins, List.length_pos_iff_exists_mem]
  refine exists_congr fun q => ?_
  rw [List.mem_filter, Bool.and_eq_true, ← and_assoc (a := 1 ≤ q)]
  refine and_congr ?_ Iff.rfl
  simp only [List.mem_cons, List.not_mem_nil, or_false]
  omega

/-- Settles O23: one pin's line moves the count by what that pin adds to it. -/
theorem referenceCount : Obligations.ReferenceCount := by
  intro c p b h
  refine ⟨Controller.Counted.raise h p, Controller.Counted.clear h p, Controller.Counted.setEn h p b, ?raise, ?clear, ?setEn,
    fun q _ => c.raise_getLsbD p q, fun q _ => c.clear_getLsbD p q, fun _ hq => c.setEn_getLsbD p b hq,
    c.raise_twice p, ?undone, ?intReq⟩
  case raise => unfold Controller.raise; split <;> rfl
  case clear => unfold Controller.clear; split <;> rfl
  case setEn => unfold Controller.setEn; split <;> rfl
  case undone => rw [c.raise_twice p, c.clear_raise p]
  case intReq => rw [Controller.intReq, bne_iff_ne, h, ← Nat.pos_iff_ne_zero, activePins_pos_iff]

/-! ## Writing a pin (60_exceptions.md R429 to R436) -/

/-- Taking enables away changes no more than them and the count. -/
theorem foldl_setEn_eq (l : List Nat) (c : Controller) :
    l.foldl (fun c p => c.setEn p false) c =
      { c with
        en := (l.foldl (fun c p => c.setEn p false) c).en
        intCount := (l.foldl (fun c p => c.setEn p false) c).intCount } := by
  induction l generalizing c with
  | nil => rfl
  | cons p l ih =>
    rw [List.foldl_cons, ih (c.setEn p false)]
    unfold Controller.setEn
    split <;> rfl

theorem foldl_setEn_getLsbD (l : List Nat) (c : Controller) {q : Nat} (hq : q < 32) :
    (l.foldl (fun c p => c.setEn p false) c).en.getLsbD q =
      if q ∈ l ∧ 1 ≤ q ∧ q ≤ 15 then false else c.en.getLsbD q := by
  induction l generalizing c with
  | nil => simp
  | cons p l ih =>
    rw [List.foldl_cons, ih, c.setEn_getLsbD p false hq]
    by_cases hqp : q = p
    · subst hqp
      by_cases hpin : 1 ≤ q ∧ q ≤ 15 <;> simp [hpin]
    · simp only [hqp, false_and, if_false, List.mem_cons, false_or]

theorem activePins_zero (req : BitVec 32) : activePins req 0 = 0 := by
  have hpos := activePins_pos_iff req 0
  have hzero (q : Nat) : (0 : BitVec 32).getLsbD q = false := BitVec.getLsbD_zero
  simpa [hzero] using hpos

/-- The soft reset: every enable off, and so nothing to count (R436). -/
theorem Controller.softReset_eq {c : Controller} {now : Nat} (h : c.Ok now) :
    c.softReset = { c with en := 0, intCount := 0 } := by
  have hen : c.softReset.en = 0 := by
    refine BitVec.eq_of_getLsbD_eq fun q hq => ?_
    have hzero : (0 : BitVec 32).getLsbD q = false := BitVec.getLsbD_zero
    rw [hzero, Controller.softReset, foldl_setEn_getLsbD _ c hq]
    split
    case isTrue => rfl
    case isFalse hno =>
      refine (pins_iff c.en).mp h.enPins q hq (by_contra fun hin => hno ⟨?_, by omega⟩)
      simp only [List.mem_cons, List.not_mem_nil, or_false]
      omega
  have hcount : c.softReset.intCount = 0 := by rw [h.softReset.intCount, hen, activePins_zero]
  rw [← hen, ← hcount]
  exact foldl_setEn_eq _ c

/-- What a write in I/O mode does, pin by pin (R431, R433). -/
def IoWritten (p : Nat) (b : Bool) (c d : Controller) : Prop :=
  (p = 0 → d = { c with timerMode := b }) ∧
  (p = 3 → d = (c.setEn 3 b).clear 3) ∧
  (1 ≤ p ∧ p ≤ 15 ∧ p ≠ 3 → d = c.setEn p b) ∧
  (18 ≤ p ∧ p ≤ 20 → ∃ col, d = { c with col := col } ∧
    ∀ k, k < 3 → col.getLsbD k = if k = p - 18 then b else c.col.getLsbD k) ∧
  (p = 21 → d = { c with caps := b }) ∧
  (p = 16 ∨ p = 17 ∨ 22 ≤ p → d = c)

theorem ioWrite_written (c : Controller) (p : Nat) (b : Bool) : IoWritten p b c (c.ioWrite p b) := by
  unfold Controller.ioWrite
  refine ⟨?mode, ?timerPin, ?enable, ?column, ?caps, ?none⟩
  case mode => intro hp; rw [if_pos hp]
  case timerPin => intro hp; rw [if_neg (by omega), if_pos hp]
  case enable => intro hp; rw [if_neg (by omega), if_neg (by omega), if_pos (by omega)]
  case column =>
    intro hp
    rw [if_neg (by omega), if_neg (by omega), if_neg (by omega), if_pos hp]
    refine ⟨setBit c.col (p - 18) b, rfl, fun k hk => ?_⟩
    rw [setBit_getLsbD]
    simp only [hk, and_true]
  case caps => intro hp; rw [if_neg (by omega), if_neg (by omega), if_neg (by omega), if_neg (by omega), if_pos hp]
  case none =>
    intro hp; rw [if_neg (by omega), if_neg (by omega), if_neg (by omega), if_neg (by omega), if_neg (by omega)]

/-- Settles O24: the branches of the two write functions, and the soft reset, which the invariant makes all of `en`. -/
theorem pinWrites : Obligations.PinWrites := by
  intro s p b hinv _ c t io
  have hok : c.Ok s.cycles := hinv.ok.timerSample
  have ht : t.io = c.pinWrite p b s.cycles := rfl
  refine ⟨rfl, ?ioMode, ?timerMode⟩
  case ioMode =>
    intro hmode
    rw [ht, Controller.pinWrite, hmode]
    exact ioWrite_written c p b
  case timerMode =>
    intro hmode
    rw [ht, Controller.pinWrite, if_pos hmode, Controller.timerWrite]
    refine ⟨?mode, ?clock, ?keep, ?softReset, ?leave⟩
    case mode => intro hp; rw [if_pos hp]
    case clock =>
      intro hp
      rw [if_neg (by omega), if_pos hp.2]
      refine ⟨setBit c.clock (p - 1) b, fun j hj => ?_, rfl⟩
      rw [setBit_getLsbD]
      simp only [hj, and_true]
    case keep => intro hp hb; rw [if_neg (by omega), if_neg (by omega), if_pos hp, if_pos hb]
    case softReset =>
      intro hp hb
      rw [if_neg (by omega), if_neg (by omega), if_pos hp, hb, if_neg Bool.false_ne_true, Controller.softReset_eq hok]
    case leave =>
      intro hp
      rw [if_neg (by omega), if_neg (by omega), if_neg (by omega)]
      exact ioWrite_written { c with timerMode := false } p b

/-! ## Reading a pin (60_exceptions.md R429, R432, R435, R450) -/

/-- What a read in I/O mode gives, pin by pin. -/
theorem ioRead_cases (u : State) (p : Nat) :
    (p = 0 → u.ioRead p = (false, u)) ∧
    (p = 1 ∨ p = 2 → u.ioRead p = (!u.io.req.getLsbD p, u)) ∧
    (3 ≤ p ∧ p ≤ 5 ∧ 6 ≤ u.io.col.toNat → u.ioRead p = (true, u)) ∧
    (3 ≤ p ∧ p ≤ 10 ∧ ¬ (p ≤ 5 ∧ 6 ≤ u.io.col.toNat) →
      u.ioRead p = (!Config.keyMatrix u.draws u.kbd.keys u.kbd.joy1 u.kbd.joy2 u.io.col.toNat (p - 3) u.io.caps,
        { u with draws := u.draws + 1 })) ∧
    (11 ≤ p → u.ioRead p = (true, u)) := by
  unfold State.ioRead State.matrixRow
  refine ⟨?mode, ?request, ?joystick, ?matrix, ?other⟩
  case mode => intro hp; rw [if_pos hp]
  case request => intro hp; rw [if_neg (by omega), if_pos (by omega)]
  case joystick =>
    intro hp
    have hrow : (decide (6 ≤ u.io.col.toNat) && decide (p - 3 ≤ 2)) = true := by simp; omega
    rw [if_neg (by omega), if_neg (by omega), if_pos (by omega), if_pos hrow]
  case matrix =>
    intro hp
    have hrow : ¬ (decide (6 ≤ u.io.col.toNat) && decide (p - 3 ≤ 2)) = true := by simp; omega
    rw [if_neg (by omega), if_neg (by omega), if_pos (by omega), if_neg hrow]
    rfl
  case other => intro hp; rw [if_neg (by omega), if_neg (by omega), if_neg (by omega)]

/-- Settles O25: the branches of the two read functions after the sample. -/
theorem pinReads : Obligations.PinReads := by
  intro s p _ c u io
  refine ⟨?ioMode, ?timerMode⟩
  case ioMode =>
    intro hmode
    have hread : s.pinRead p = u.ioRead p := by
      have hm : s.timerSample.io.timerMode = false := hmode
      simp only [State.pinRead, hm]
      rfl
    rw [hread]
    exact ioRead_cases u p
  case timerMode =>
    intro hmode
    have hread : s.pinRead p = u.timerRead p := by
      have hm : s.timerSample.io.timerMode = true := hmode
      simp only [State.pinRead, hm]
      rfl
    rw [hread, State.timerRead]
    refine ⟨?mode, ?clock, ?request, ?leave⟩
    case mode => intro hp; rw [if_pos hp]
    case clock => intro hp; rw [if_neg (by omega), if_pos hp.2]
    case request => intro hp; rw [if_neg (by omega), if_neg (by omega), if_pos hp]
    case leave =>
      intro hp
      rw [if_neg (by omega), if_neg (by omega), if_neg (by omega)]
      exact ioRead_cases { s with io := { c with timerMode := false } } p

/-! ## The CRU bus (20_memory.md R113, R135, R140) -/

/-- A retagging, granule by granule: the listed ones that carry DSR or DISK change (R113). -/
theorem granuleTag_retag {s : State} (h : sparseWf (regionInit s.md) s.tags) (disk : Bool) (lo hi g : Nat) :
    (s.retag disk lo hi).granuleTag g =
      if 0x400 ≤ g ∧ g ≤ 0x5FF ∧ lo ≤ g ∧ g ≤ hi ∧ (s.granuleTag g = .dsr ∨ s.granuleTag g = .disk)
      then (if disk then .disk else .dsr) else s.granuleTag g := by
  have hfold (l : List Nat) (t : State) (ht : sparseWf (regionInit t.md) t.tags) :
      (l.foldl (fun s g =>
          if sparseGet (regionInit s.md) s.tags g = .dsr ∨ sparseGet (regionInit s.md) s.tags g = .disk then
            s.setTag g (if disk then .disk else .dsr)
          else s) t).granuleTag g =
        if g ∈ l ∧ (t.granuleTag g = .dsr ∨ t.granuleTag g = .disk) then (if disk then .disk else .dsr)
        else t.granuleTag g := by
    induction l generalizing t with
    | nil => simp
    | cons k l ih =>
      rw [List.foldl_cons]
      by_cases hk : sparseGet (regionInit t.md) t.tags k = .dsr ∨ sparseGet (regionInit t.md) t.tags k = .disk
      · rw [if_pos hk, ih _ (setTag_wf ht k _), granuleTag_setTag ht]
        by_cases hg : g = k
        · subst hg
          have hk' : t.granuleTag g = .dsr ∨ t.granuleTag g = .disk := hk
          simp only [if_pos, List.mem_cons_self, true_and, hk', ite_self]
        · simp only [List.mem_cons, hg, false_or, if_false]
      · have hne (hg : g = k) : ¬ (t.granuleTag g = .dsr ∨ t.granuleTag g = .disk) := hg ▸ hk
        rw [if_neg hk, ih _ ht]
        by_cases hg : g = k
        · rw [if_neg fun hc => hne hg hc.2, if_neg fun hc => hne hg hc.2]
        · simp only [List.mem_cons, hg, false_or]
  rw [State.retag, hfold _ s h]
  simp only [List.mem_filter, List.mem_range'_1, Bool.and_eq_true, decide_eq_true_eq]
  refine if_congr ?_ rfl rfl
  constructor
  · rintro ⟨⟨hr, hl, hh⟩, htag⟩
    exact ⟨hr.1, by omega, hl, hh, htag⟩
  · rintro ⟨h1, h2, hl, hh, htag⟩
    exact ⟨⟨⟨h1, by omega⟩, hl, hh⟩, htag⟩

/-- Settles O22: the dispatch's branches in order; only the last one reaches a collaborator's input list. -/
theorem cruDispatch : Obligations.CruDispatch := by
  refine ⟨fun a => ?stock, fun s a b => ⟨fun p hp => ?pin, fun hp => ⟨fun ha => ?visible, fun ha => ?active,
    fun hv ha => ?outside⟩⟩⟩
  case stock =>
    have hpin : (0 + (a.toNat - 0)) % 32 = a.toNat % 32 := by omega
    simp only [pinOf, Descriptor.stock, pinAt, hpin, Nat.zero_le, true_and]
  case pin => constructor <;> simp only [State.cruRead, State.cruWrite, hp]
  case visible => simp only [State.cruRead, hp, if_pos ha]
  case active =>
    have hne : a ≠ s.md.samsCruBase := by bv_omega
    simp only [State.cruRead, hp, if_neg hne, if_pos ha]
  case outside =>
    have hwrite : s.cruWrite a b = (s.log (.cruOut a b)).reactEnable := by
      simp only [State.cruWrite, hp, if_neg hv, if_neg ha]
    refine ⟨?read, fun hin => ?none, fun rest hin => ?quiet, fun disk lo hi rest hinv hin => ?retag⟩
    case read =>
      simp only [State.cruRead, hp, if_neg hv, if_neg ha]
      rfl
    all_goals
      have hin' : (s.log (.cruOut a b)).cruInputs = _ := hin
      rw [hwrite, State.reactEnable, hin']
    case none => rfl
    case quiet => rfl
    case retag =>
      intro t
      obtain ⟨u, hu⟩ : ∃ u, u = (s.log (.cruOut a b)).setCruInputs rest := ⟨_, rfl⟩
      have ht : t = u.retag disk lo hi := by rw [hu]; rfl
      clear_value t
      subst ht
      refine ⟨?_, fun g => ?_⟩
      · obtain ⟨tags, htags⟩ := retag_eq u disk lo hi
        rw [htags, hu]
        rfl
      · have hg := granuleTag_retag (s := u) (by rw [hu]; exact hinv.tagsWf) disk lo hi g
        have hsame : u.granuleTag g = s.granuleTag g := by rw [hu]; rfl
        rwa [hsame] at hg

end Sys2Proof.Machine
end

section
/-! PROOFS. CRU transfers, shifts, the external instructions and the flag rules (44_cru_multi_shift.md R310 to R318,
46_immediate_control.md R370 to R379, 40_operands.md R206, R207): the model's bit-by-bit transfers are folds over the bit
numbers, and its shifts are the rules' arithmetic. -/

namespace Sys2Proof.Claims

open Sys2Proof.Machine

/-! ## Transfers of several bits (44_cru_multi_shift.md R310) -/

theorem cruWriteBits_eq_foldl (s : State) (a : CruAddr) (v : Word) (i n : Nat) :
    s.cruWriteBits a v i n =
      (List.range' i n).foldl (fun u k => u.cruWrite (a + BitVec.ofNat 12 k) (v.getLsbD k)) s := by
  induction n generalizing s i with
  | zero => rfl
  | succ n ih => rw [State.cruWriteBits, List.range'_succ, List.foldl_cons, ih]

/-- The model's transfer of the low bits of `v` is the statements' (R141). -/
theorem cruWriteBits_eq_sendBits (s : State) (base n : Nat) (v : Word) :
    s.cruWriteBits (BitVec.ofNat 12 base) v 0 n = sendBits s base n v.toNat := by
  rw [cruWriteBits_eq_foldl, sendBits, List.range_eq_range']
  simp only [BitVec.ofNat_add, BitVec.testBit_toNat]

theorem setBit_ofNat_of_lt {p i : Nat} (hp : p < 2 ^ i) (b : Bool) :
    setBit (BitVec.ofNat 16 p) i b = BitVec.ofNat 16 (if b then p + 2 ^ i else p) := by
  refine BitVec.eq_of_getLsbD_eq fun j hj => ?_
  have hpj (hij : i ≤ j) : p.testBit j = false :=
    Nat.testBit_lt_two_pow (hp.trans_le (Nat.pow_le_pow_right (by decide) hij))
  rw [setBit_getLsbD]
  simp only [hj, and_true, BitVec.getLsbD_ofNat, decide_true, Bool.true_and]
  cases b
  · by_cases hji : j = i
    · rw [if_pos hji, if_neg Bool.false_ne_true, hpj hji.ge]
    · simp [hji]
  · have hor : p + 2 ^ i = 2 ^ i ||| p := by
      have h := Nat.two_pow_add_eq_or_of_lt hp 1
      rw [Nat.mul_one] at h
      rw [← h, Nat.add_comm]
    simp only [if_true, hor, Nat.testBit_or, Nat.testBit_two_pow]
    by_cases hji : j = i
    · simp [hji]
    · simp [hji, Ne.symm hji]

/-- One bit of the statements' transfer from the CRU. -/
def receiveBit (base : Nat) (p : Nat × State) (k : Nat) : Nat × State :=
  let r := p.2.cruRead (BitVec.ofNat 12 (base + k))
  (if r.1 then p.1 + 2 ^ k else p.1, r.2)

theorem receiveBits_eq (s : State) (base n : Nat) :
    receiveBits s base n = (List.range' 0 n).foldl (receiveBit base) (0, s) := by
  rw [receiveBits, List.range_eq_range']
  rfl

theorem receiveBit_lt {base i : Nat} {p : Nat × State} (hp : p.1 < 2 ^ i) : (receiveBit base p i).1 < 2 ^ (i + 1) := by
  rw [receiveBit, Nat.pow_succ]
  dsimp only
  split <;> omega

theorem cruReadBits_eq_foldl (base n : Nat) : ∀ (p : Nat × State) (i : Nat), p.1 < 2 ^ i →
    p.2.cruReadBits (BitVec.ofNat 12 base) (BitVec.ofNat 16 p.1) i n =
      (BitVec.ofNat 16 ((List.range' i n).foldl (receiveBit base) p).1, ((List.range' i n).foldl (receiveBit base) p).2) := by
  induction n with
  | zero => exact fun _ _ _ => rfl
  | succ n ih =>
    intro p i hp
    rw [State.cruReadBits, ← BitVec.ofNat_add, setBit_ofNat_of_lt hp, List.range'_succ, List.foldl_cons]
    exact ih (receiveBit base p i) (i + 1) (receiveBit_lt hp)

theorem cruReadBits_eq_receiveBits (s : State) (base n : Nat) :
    s.cruReadBits (BitVec.ofNat 12 base) 0 0 n =
      (BitVec.ofNat 16 (receiveBits s base n).1, (receiveBits s base n).2) := by
  rw [receiveBits_eq]
  exact cruReadBits_eq_foldl base n (0, s) 0 Nat.one_pos

theorem cruCount_eq (c : BitVec 4) : cruCount c = transferCount c := by
  rw [cruCount, transferCount]
  exact if_congr (by rw [← BitVec.toNat_inj]; rfl) rfl rfl

theorem loByte_ofNat (n : Nat) : loByte (BitVec.ofNat 16 n) = BitVec.ofNat 8 n := by
  apply BitVec.eq_of_toNat_eq
  simp only [loByte, BitVec.extractLsb'_toNat, BitVec.toNat_ofNat, Nat.shiftRight_zero]
  omega

theorem toNat_zextByte (b : Byte) : (zextByte b).toNat = b.toNat := by
  have hlt := b.isLt
  rw [zextByte, BitVec.toNat_setWidth]
  omega

/-! ## LDCR and STCR (44_cru_multi_shift.md R311, R312) -/

theorem stIs_lae_opFlag (b : Byte) (st : Word) : StIs st (opFlag b (lae b st)) (laeBits b ++ parityBits b) :=
  (stIs_lae b st).snoc_opFlag rfl b

@[simp] theorem sendBits_st (s : State) (base n v : Nat) : (sendBits s base n v).st = s.st := by
  rw [sendBits]
  induction List.range n generalizing s with
  | nil => rfl
  | cons k l ih => exact (ih (s.cruWrite (BitVec.ofNat 12 (base + k)) (v.testBit k))).trans (cruWrite_st ..)

@[simp] theorem sendBits_md (s : State) (base n v : Nat) : (sendBits s base n v).md = s.md := by
  rw [sendBits]
  induction List.range n generalizing s with
  | nil => rfl
  | cons k l ih => exact (ih (s.cruWrite (BitVec.ofNat 12 (base + k)) (v.testBit k))).trans (cruWrite_md ..)

@[simp] theorem receiveBits_st (s : State) (base n : Nat) : (receiveBits s base n).2.st = s.st := by
  rw [← cruReadBits_st s (BitVec.ofNat 12 base) 0 0 n, cruReadBits_eq_receiveBits]

@[simp] theorem receiveBits_md (s : State) (base n : Nat) : (receiveBits s base n).2.md = s.md := by
  rw [← cruReadBits_md s (BitVec.ofNat 12 base) 0 0 n, cruReadBits_eq_receiveBits]

theorem exec_ldcr_byte {c : BitVec 4} (hc : transferCount c ≤ 8) (gs : GA) (s : State) :
    let v := byteOperand s gs
    let base := cruBaseOf v.2.2
    let t := sendBits base.2 base.1 (transferCount c) v.2.1.toNat
    exec (.ldcr gs c) s = .next ((t.setSt (opFlag v.2.1 (lae v.2.1 t.st))).pay (.ldcr gs c) .plain) := by
  have hexec : exec (.ldcr gs c) s = execLdcr gs c s := rfl
  simp only [hexec, execLdcr, cruCount_eq, if_pos hc, cruBase_eq, cruWriteBits_eq_sendBits, toNat_zextByte]
  rfl

theorem exec_ldcr_word {c : BitVec 4} (hc : 8 < transferCount c) (gs : GA) (s : State) :
    let v := wordOperand s gs
    let base := cruBaseOf v.2.2
    let t := sendBits base.2 base.1 (transferCount c) v.2.1.toNat
    exec (.ldcr gs c) s = .next ((t.setSt (lae v.2.1 t.st)).pay (.ldcr gs c) .plain) := by
  have hexec : exec (.ldcr gs c) s = execLdcr gs c s := rfl
  simp only [hexec, execLdcr, cruCount_eq, if_neg (Nat.not_le.mpr hc), cruBase_eq, cruWriteBits_eq_sendBits]
  rfl

/-- Settles O46: the two widths of the operand, each with its transfer as a fold. -/
theorem loadCru : Obligations.LoadCru := by
  intro gs c s n
  refine ⟨fun hn => ?byte, fun hn => ?word⟩
  case byte =>
    intro v base
    obtain ⟨u, hu⟩ : ∃ u, u = sendBits base.2 base.1 n v.2.1.toNat := ⟨_, rfl⟩
    have hst : u.st = s.st := by simp [hu, base, v]
    have hmd : u.md = s.md := by simp [hu, base, v]
    refine ⟨_, stIs_lae_opFlag v.2.1 s.st, ?_⟩
    rw [← hu, ← hst, ← pay_eq_addCycles (t := u.setSt (opFlag v.2.1 (lae v.2.1 u.st))) hmd, hu]
    exact exec_ldcr_byte hn gs s
  case word =>
    intro v base
    obtain ⟨u, hu⟩ : ∃ u, u = sendBits base.2 base.1 n v.2.1.toNat := ⟨_, rfl⟩
    have hst : u.st = s.st := by simp [hu, base, v]
    have hmd : u.md = s.md := by simp [hu, base, v]
    refine ⟨_, stIs_lae v.2.1 s.st, ?_⟩
    rw [← hu, ← hst, ← pay_eq_addCycles (t := u.setSt (lae v.2.1 u.st)) hmd, hu]
    exact exec_ldcr_word hn gs s

theorem exec_stcr_byte {c : BitVec 4} (hc : transferCount c ≤ 8) (gd : GA) (s : State) :
    let a := s.ea gd .byte
    let base := cruBaseOf a.2
    let r := receiveBits base.2 base.1 (transferCount c)
    let v : Byte := BitVec.ofNat 8 r.1
    exec (.stcr gd c) s = .next (((r.2.setSt (opFlag v (lae v r.2.st))).writeByte a.1 v).pay (.stcr gd c) .plain) := by
  have hexec : exec (.stcr gd c) s = execStcr gd c s := rfl
  simp only [hexec, execStcr, cruCount_eq, if_pos hc, cruBase_eq, cruReadBits_eq_receiveBits, loByte_ofNat]

theorem exec_stcr_word {c : BitVec 4} (hc : 8 < transferCount c) (gd : GA) (s : State) :
    let a := s.ea gd .word
    let base := cruBaseOf a.2
    let r := receiveBits base.2 base.1 (transferCount c)
    let v : Word := BitVec.ofNat 16 r.1
    exec (.stcr gd c) s = .next (((r.2.setSt (lae v r.2.st)).writeWord a.1 v).pay (.stcr gd c) .plain) := by
  have hexec : exec (.stcr gd c) s = execStcr gd c s := rfl
  simp only [hexec, execStcr, cruCount_eq, if_neg (Nat.not_le.mpr hc), cruBase_eq, cruReadBits_eq_receiveBits]

/-- Settles O47: the two widths of the operand, each with its transfer as a fold. -/
theorem storeCru : Obligations.StoreCru := by
  intro gd c s n
  refine ⟨fun hn => ?byte, fun hn => ?word⟩
  case byte =>
    intro a base r v
    obtain ⟨hst, hmd⟩ : r.2.st = s.st ∧ r.2.md = s.md := by simp [r, base, a]
    refine ⟨_, stIs_lae_opFlag v s.st, ?_⟩
    rw [← hst, ← pay_eq_addCycles (t := (r.2.setSt (opFlag v (lae v r.2.st))).writeByte a.1 v) (by simp [hmd])]
    exact exec_stcr_byte hn gd s
  case word =>
    intro a base r v
    obtain ⟨hst, hmd⟩ : r.2.st = s.st ∧ r.2.md = s.md := by simp [r, base, a]
    refine ⟨_, stIs_lae v s.st, ?_⟩
    rw [← hst, ← pay_eq_addCycles (t := (r.2.setSt (lae v r.2.st)).writeWord a.1 v) (by simp [hmd])]
    exact exec_stcr_word hn gd s

/-! ## Shifts (44_cru_multi_shift.md R313 to R318) -/

theorem shiftCount_eq (s : State) (c : BitVec 4) : s.shiftCount c = countOf s c := by
  have hr0 : s.readReg 0 = s.readWord (regAddr s 0) := readReg_eq_readWord rfl _
  have hbits (v : Word) : (v.extractLsb' 0 4).toNat = v.toNat % 16 := by
    rw [BitVec.extractLsb'_toNat, Nat.shiftRight_zero]
  have hzero : c = 0#4 ↔ c.toNat = 0 := by rw [← BitVec.toNat_inj]; rfl
  simp only [State.shiftCount, countOf, hr0, hbits, hzero]

theorem countOf_le (s : State) (c : BitVec 4) : (countOf s c).1 ≤ 16 := by
  have hc := c.isLt
  rw [countOf]
  split
  · dsimp only
    split <;> omega
  · exact Nat.le_of_lt hc

@[simp] theorem countOf_md_wp_st (s : State) (c : BitVec 4) :
    (countOf s c).2.md = s.md ∧ (countOf s c).2.wp = s.wp ∧ (countOf s c).2.st = s.st := by
  rw [← shiftCount_eq]
  simp

/-- The model's result `alu` need not be spelled as the rule's `f`, and its ST follows the rule's flag list. -/
theorem shiftIs_of_exec {i : Instr} {w : Reg} {c : BitVec 4} {alu : (v : Word) → (n : Nat) → (st : Word) → Word × Word}
    {f : Word → Nat → Word} {bits : Word → Nat → List (Nat × Bool)} (hexec : ∀ s, exec i s = .next (s.shift i w c alu))
    (halu : ∀ v n st, n ≤ 16 → (alu v n st).1 = f v n ∧ StIs st (alu v n st).2 (bits v n)) : ShiftIs i w c f bits := by
  intro s n x
  obtain ⟨-, hwp, hst⟩ := countOf_md_wp_st s c
  have hx : n.2.readReg w.toNat = x := readReg_eq_readWord hwp _
  have hxst : x.2.st = s.st := (readWord_st ..).trans hst
  obtain ⟨hf, hbits⟩ := halu x.1 n.1 s.st (countOf_le s c)
  refine ⟨(alu x.1 n.1 s.st).2, hbits, ?_⟩
  have hshift : s.shift i w c alu =
      ((x.2.setSt (alu x.1 n.1 s.st).2).writeReg w.toNat (alu x.1 n.1 s.st).1).pay i (.shifted n.1) := by
    simp only [State.shift, shiftCount_eq]
    rw [hx, hxst]
  rw [hexec, hshift, hf, writeReg_eq_writeWord (s := s) (by simp [x, n]),
    pay_eq_addCycles (s := s) (by simp [x, n])]

/-- The last bit shifted out, then the comparison of the result with zero. -/
theorem stIs_carry_lae (c : Bool) (r st : Word) : StIs st (lae r (setBit st bitC c)) ((12, c) :: laeBits r) := by
  rw [laeBits_eq]
  exact ((StIs.refl st).snoc_setBit rfl c).snoc_compare rfl rfl rfl _ _ _

theorem signChanges_eq (v : Word) (n : Nat) :
    signChanges v n = (List.range n).any fun k => (v <<< (k + 1)).getLsbD 15 != v.getLsbD 15 := by
  induction n with
  | zero => rfl
  | succ n ih =>
    rw [signChanges, ih, List.range_succ, List.any_append, Bool.or_comm]
    simp [BitVec.msb_eq_getLsbD_last]

theorem sshiftRight_eq_ofInt (v : Word) (n : Nat) : v.sshiftRight n = BitVec.ofInt 16 (v.toInt / 2 ^ n) := by
  rw [BitVec.sshiftRight, Int.shiftRight_eq_div_pow]
  rfl

theorem ushiftRight_eq_ofNat (v : Word) (n : Nat) : v >>> n = BitVec.ofNat 16 (v.toNat / 2 ^ n) := by
  apply BitVec.eq_of_toNat_eq
  have hle := Nat.div_le_self v.toNat (2 ^ n)
  rw [BitVec.toNat_ushiftRight, Nat.shiftRight_eq_div_pow, BitVec.toNat_ofNat, Nat.mod_eq_of_lt (by omega)]

theorem shiftLeft_eq_ofNat (v : Word) (n : Nat) : v <<< n = BitVec.ofNat 16 (v.toNat * 2 ^ n) := by
  apply BitVec.eq_of_toNat_eq
  rw [BitVec.toNat_shiftLeft, Nat.shiftLeft_eq, BitVec.toNat_ofNat]

/-- A rotation by 16 is the model's two shifts as well. -/
theorem rotation_eq (v : Word) {n : Nat} (hn : n ≤ 16) : (v >>> n) ||| (v <<< (16 - n)) = v.rotateRight n := by
  obtain hlt | rfl := Nat.lt_or_eq_of_le hn
  · rw [BitVec.rotateRight_def, Nat.mod_eq_of_lt hlt]
  · rw [BitVec.ushiftRight_eq_zero le_rfl]
    simp [BitVec.rotateRight_def]

/-- Settles O48: each shift is its rule's arithmetic, and the flags are set in the rule's order. -/
theorem shifts : Obligations.Shifts := by
  intro w c
  refine ⟨shiftIs_of_exec (fun s => rfl) fun v n st _ => ?sra, shiftIs_of_exec (fun s => rfl) fun v n st _ => ?srl,
    shiftIs_of_exec (fun s => rfl) fun v n st _ => ?sla, shiftIs_of_exec (fun s => rfl) fun v n st hn => ?src⟩
  case sra => exact ⟨sshiftRight_eq_ofInt v n, sshiftRight_eq_ofInt v n ▸ stIs_carry_lae _ _ st⟩
  case srl => exact ⟨ushiftRight_eq_ofNat v n, ushiftRight_eq_ofNat v n ▸ stIs_carry_lae _ _ st⟩
  case sla =>
    refine ⟨shiftLeft_eq_ofNat v n, ?_⟩
    rw [← signChanges_eq, ← shiftLeft_eq_ofNat]
    exact stIs_carry_overflow_lae _ _ _ st
  case src => exact ⟨rotation_eq v hn, rotation_eq v hn ▸ stIs_carry_lae _ _ st⟩

/-! ## The external instructions (46_immediate_control.md R370 to R379) -/

/-- Settles O57: none of the five reads or writes memory, so each result is written out. -/
theorem idleAndExternals : Obligations.IdleAndExternals := by
  intro s logged
  exact ⟨rfl, ⟨_, stIs_setIntMask s.st 0, rfl⟩, rfl, rfl, rfl⟩

/-! ## The flag rules against exact arithmetic (40_operands.md R206, R207) -/

theorem addFlags_overflow {w : Nat} (d v : BitVec w) (st : Word) :
    (addFlags d v st).getLsbD 11 = true ↔
      2 ^ (w - 1) ≤ d.toInt + v.toInt ∨ d.toInt + v.toInt < - 2 ^ (w - 1) := by
  have h := BitVec.saddOverflow_eq d v
  rw [addFlags_getLsbD]
  simp only [Nat.reduceEqDiff, if_false, if_true]
  rw [bne, ← h]
  simp [BitVec.saddOverflow]

theorem subFlags_overflow {w : Nat} (d v : BitVec w) (st : Word) :
    (subFlags d v st).getLsbD 11 = true ↔
      2 ^ (w - 1) ≤ d.toInt - v.toInt ∨ d.toInt - v.toInt < - 2 ^ (w - 1) := by
  have h : (d.msb != v.msb && (d - v).msb != d.msb) = d.ssubOverflow v := by
    rw [BitVec.ssubOverflow_eq]
    cases d.msb <;> cases v.msb <;> cases (d - v).msb <;> rfl
  rw [subFlags_getLsbD]
  simp only [Nat.reduceEqDiff, if_false, if_true]
  rw [h]
  simp [BitVec.ssubOverflow]

/-- Settles O59: OV is the library's signed overflow, C a wrap of the unsigned sum or no borrow. -/
theorem flagsAreExact : Obligations.FlagsAreExact := by
  intro d v e u st
  refine ⟨?addWord, ?subWord, ?addByte, ?subByte, ?carry, ?borrow⟩
  case addWord => rw [addFlags_overflow]; omega
  case subWord => rw [subFlags_overflow]; omega
  case addByte => rw [addFlags_overflow]; omega
  case subByte => rw [subFlags_overflow]; omega
  case carry =>
    rw [addFlags_getLsbD, BitVec.toNat_add]
    simp only [Nat.reduceEqDiff, if_false, if_true, decide_eq_true_eq]
    omega
  case borrow =>
    rw [subFlags_getLsbD, BitVec.toNat_sub]
    simp only [Nat.reduceEqDiff, if_false, if_true, decide_eq_true_eq]
    omega

end Sys2Proof.Claims
end

section
/-! PROOFS. X chains (45_single_operand.md R332): the model's `runChain` and `chainNext` go along the trail that the statements
write out, so a step comes to the trail's end or to its sixteenth word, and a chain is a hang when its trail has no end. -/

namespace Sys2Proof.Claims

open Sys2Proof.Machine

/-! ## The trail -/

theorem isX_iff {i : Instr} : isX i = true ↔ ∃ g, i = .x g := by
  cases i with
  | x g => exact ⟨fun _ => ⟨g, rfl⟩, fun _ => rfl⟩
  | _ => exact ⟨fun h => Bool.noConfusion h, fun ⟨_, h⟩ => Instr.noConfusion h⟩

theorem ne_x_of_not_isX {i : Instr} (h : isX i = false) (g : GA) : i ≠ .x g := fun hg => by
  rw [hg] at h
  exact Bool.noConfusion h

/-- The place `p` of a chain stands at an X. -/
def AtX (p : Word × State × Nat) : Prop := isX (decodeWord p.1) = true

theorem trailFrom_succ_of_x {p : Word × State × Nat} {k : Nat} {g : GA} (h : decodeWord (trailFrom p k).1 = .x g) :
    trailFrom p (k + 1) =
      (((trailFrom p k).2.1.xFetch g).1, ((trailFrom p k).2.1.xFetch g).2,
        (trailFrom p k).2.2 + cost (trailFrom p k).2.1 (.x g) .plain) := by
  simp only [trailFrom, h]
  rfl

theorem trailFrom_succ_of_not_x {p : Word × State × Nat} {k : Nat} (h : ¬ AtX (trailFrom p k)) :
    trailFrom p (k + 1) = trailFrom p k := by
  simp only [trailFrom]
  split
  case h_1 g hg => exact absurd (isX_iff.mpr ⟨g, hg⟩) h
  case h_2 => rfl

theorem trailFrom_add (p : Word × State × Nat) (m k : Nat) : trailFrom p (m + k) = trailFrom (trailFrom p m) k := by
  induction k with
  | zero => rfl
  | succ k ih =>
    by_cases h : AtX (trailFrom p (m + k))
    · obtain ⟨g, hg⟩ := isX_iff.mp h
      rw [← Nat.add_assoc, trailFrom_succ_of_x hg, trailFrom_succ_of_x (ih ▸ hg), ih]
    · rw [← Nat.add_assoc, trailFrom_succ_of_not_x h, trailFrom_succ_of_not_x (ih ▸ h), ih]

/-- What no X changes (R332). -/
structure SameMachine (s t : State) : Prop where
  md : t.md = s.md
  wp : t.wp = s.wp
  tags : t.tags = s.tags
  xChain : t.xChain = s.xChain

theorem trailFrom_sameMachine (p : Word × State × Nat) (k : Nat) : SameMachine p.2.1 (trailFrom p k).2.1 := by
  induction k with
  | zero => exact ⟨rfl, rfl, rfl, rfl⟩
  | succ k ih =>
    by_cases h : AtX (trailFrom p k)
    · obtain ⟨g, hg⟩ := isX_iff.mp h
      rw [trailFrom_succ_of_x hg]
      exact ⟨(sourceWord_md _ g).trans ih.md, (sourceWord_wp _ g).trans ih.wp, (sourceWord_tags _ g).trans ih.tags,
        (sourceWord_xChain _ g).trans ih.xChain⟩
    · rw [trailFrom_succ_of_not_x h]
      exact ih

/-! ## Running a chain -/

/-- X after X, `runChain` goes along the trail. -/
theorem runChain_trailFrom (mark : XMark) (p : Word × State × Nat) {n : Nat} (m : Nat)
    (h : ∀ k, k < n → AtX (trailFrom p k)) :
    runChain (n + m) mark p.1 p.2.2 p.2.1 =
      runChain m mark (trailFrom p n).1 (trailFrom p n).2.2 (trailFrom p n).2.1 := by
  induction n generalizing m with
  | zero => rw [Nat.zero_add]; rfl
  | succ n ih =>
    obtain ⟨g, hg⟩ := isX_iff.mp (h n (Nat.lt_succ_self n))
    rw [Nat.add_right_comm, Nat.add_assoc, ih (m + 1) fun k hk => h k (Nat.lt_succ_of_lt hk), runChain_x hg,
      trailFrom_succ_of_x hg]
    rfl

/-- The first word that is no X is executed where the trail comes to it, and the base costs of the X's are paid. -/
theorem runChain_of_end (mark : XMark) (p : Word × State × Nat) {n : Nat} (hn : n < 16)
    (h : ∀ k, k < n → AtX (trailFrom p k)) (hend : isX (decodeWord (trailFrom p n).1) = false) :
    ∃ t, exec (decodeWord (trailFrom p n).1) (trailFrom p n).2.1 = .next t ∧
      runChain 16 mark p.1 p.2.2 p.2.1 = .next (t.addCycles (trailFrom p n).2.2) := by
  obtain ⟨t, ht⟩ := exec_completes (decodeWord (trailFrom p n).1) (trailFrom p n).2.1
  refine ⟨t, ht, ?_⟩
  have hsplit : n + (15 - n + 1) = 16 := by omega
  rw [← hsplit, runChain_trailFrom mark p _ h]
  rw [exec_eq_execPlain_of_not_isX hend] at ht
  exact runChain_end (ne_x_of_not_isX hend) _ mark _ ht

/-- Sixteen X's leave the chain open at the word after them. -/
theorem runChain_of_open (mark : XMark) (p : Word × State × Nat) (h : ∀ k, k < 16 → AtX (trailFrom p k)) :
    runChain 16 mark p.1 p.2.2 p.2.1 =
      .next ((trailFrom p 16).2.1.setXChain (some ⟨(trailFrom p 16).1, (trailFrom p 16).2.2,
        mark.next (XSeen.of (trailFrom p 16).1 (trailFrom p 16).2.1)⟩)) :=
  runChain_trailFrom mark p 0 h

theorem step_of_openChain {s : State} {c : XChain} (hcall : s.pendingCall = none) (hc : s.xChain = some c) :
    step s = Machine.afterExec (runChain 16 c.mark c.word c.owed (s.setXChain none)) := by
  simp only [step, hcall, hc]
  rfl

/-- An open chain that stays open. -/
theorem step_of_open {s : State} {c : XChain} (hcall : s.pendingCall = none) (hc : s.xChain = some c)
    (h : ∀ k, k < 16 → AtX (trailFrom (c.word, s.setXChain none, c.owed) k)) :
    let q := trailFrom (c.word, s.setXChain none, c.owed) 16
    step s = .next (q.2.1.setXChain (some ⟨q.1, q.2.2, c.mark.next (XSeen.of q.1 q.2.1)⟩)) := by
  rw [step_of_openChain hcall hc, runChain_of_open c.mark (c.word, s.setXChain none, c.owed) h]
  rfl

/-- An instruction that is no X opens no chain. -/
theorem xChain_of_exec {i : Instr} (hi : isX i = false) {s t : State} (h : exec i s = .next t) : t.xChain = s.xChain :=
  ((execFrame i s t h).2.2.2.2.2.2.2 hi).1

/-- Settles O51: the trail is what `runChain` goes along, first in X's own step and then in each later one. -/
theorem execute : Obligations.Execute := by
  intro g s
  refine ⟨fun n hn hx hend => ?ends, fun hx => ?opens,
    fun c hcall hc => ⟨fun n hn hx hend => ?laterEnds, fun hx => ?stays⟩⟩
  case ends =>
    exact runChain_of_end XMark.fresh ((wordOperand s g).2.1, (wordOperand s g).2.2, cost s (.x g) .plain) hn hx hend
  case opens => exact runChain_of_open XMark.fresh ((wordOperand s g).2.1, (wordOperand s g).2.2, cost s (.x g) .plain) hx
  case laterEnds =>
    obtain ⟨t, ht, hrun⟩ := runChain_of_end c.mark (c.word, s.setXChain none, c.owed) hn hx hend
    refine ⟨t, ht, ?_⟩
    have hchain : t.xChain = none :=
      (xChain_of_exec hend ht).trans (trailFrom_sameMachine (c.word, s.setXChain none, c.owed) n).xChain
    rw [step_of_openChain hcall hc, hrun]
    have hopen : (t.addCycles (trailFrom (c.word, s.setXChain none, c.owed) n).2.2).xChain.isSome = false := by
      rw [addCycles_xChain, hchain]
      rfl
    simp only [Machine.afterExec, State.endStep, hopen]
    rfl
  case stays => exact ⟨_, rfl, step_of_open hcall hc hx⟩

/-! ## A chain that comes back to where it was -/

/-- Two places of chains that go on alike. -/
def Alike (p q : Word × State × Nat) : Prop := q.1 = p.1 ∧ p.2.1.SeesAs q.2.1

theorem Alike.trailFrom {p q : Word × State × Nat} (h : Alike p q) (k : Nat) : Alike (trailFrom p k) (trailFrom q k) := by
  induction k with
  | zero => exact h
  | succ k ih =>
    by_cases hx : AtX (Claims.trailFrom p k)
    · obtain ⟨g, hg⟩ := isX_iff.mp hx
      rw [trailFrom_succ_of_x hg, trailFrom_succ_of_x (p := q) (by rw [ih.1, hg])]
      exact ih.2.xFetch g
    · rw [trailFrom_succ_of_not_x hx, trailFrom_succ_of_not_x (by rwa [AtX, ih.1])]
      exact ih

theorem atX_of_repeats {p : Word × State × Nat} {i j : Nat} (hij : i < j) (h : ∀ k, k < j → AtX (trailFrom p k))
    (hrep : Alike (trailFrom p i) (trailFrom p j)) (m : Nat) : AtX (trailFrom p m) := by
  induction m using Nat.strongRecOn with
  | ind m ih =>
    by_cases hm : m < j
    · exact h m hm
    · have hback := (hrep.trailFrom (m - j)).1
      rw [← trailFrom_add, ← trailFrom_add, show j + (m - j) = m by omega] at hback
      rw [AtX, hback]
      exact ih (i + (m - j)) (by omega)

/-! ## An X of itself -/

/-- `s` holds, in register `n`, the word `w` that is `X n`. -/
structure SelfX (s : State) (w : Word) (n : Reg) : Prop where
  isSelf : decodeWord w = .x (.reg n)
  held : s.peekWord (evenAddr (regAddr s n.toNat)) = some w

/-- What one more X of itself adds to the time (20_memory.md R122). -/
def selfPenalty (s : State) (n : Reg) : Nat := penalty s (s.tagAt (evenAddr (regAddr s n.toNat)))

theorem SelfX.xFetch {s : State} {w : Word} {n : Reg} (h : SelfX s w n) :
    s.xFetch (.reg n) = (w, s.addCycles (selfPenalty s n)) := by
  have hread : s.xFetch (.reg n) = s.readWord (s.ra n.toNat) := rfl
  rw [hread, ra_eq_regAddr (s := s) rfl, readWord_of_peek h.held, chargeBus_penalty, selfPenalty]

theorem SelfX.addCycles {s : State} {w : Word} {n : Reg} (h : SelfX s w n) (k : Nat) : SelfX (s.addCycles k) w n :=
  ⟨h.isSelf, h.held⟩

/-- The chain stays where it is but for time. -/
theorem SelfX.trailFrom {s : State} {w : Word} {n : Reg} (h : SelfX s w n) (owed k : Nat) :
    trailFrom (w, s, owed) k = (w, s.addCycles (k * selfPenalty s n), owed + k * cost s (.x (.reg n)) .plain) := by
  induction k with
  | zero => simp [Claims.trailFrom, State.addCycles]
  | succ k ih =>
    have hself := h.addCycles (k * selfPenalty s n)
    rw [trailFrom_succ_of_x (g := .reg n) (by rw [ih]; exact h.isSelf), ih]
    simp only [hself.xFetch, Nat.succ_mul, ← Nat.add_assoc]
    refine Prod.ext rfl (Prod.ext ?_ rfl)
    simp only [State.addCycles, Nat.add_assoc]
    rfl

theorem SelfX.atX {s : State} {w : Word} {n : Reg} (h : SelfX s w n) (owed k : Nat) : AtX (Claims.trailFrom (w, s, owed) k) := by
  rw [h.trailFrom, AtX]
  exact isX_iff.mpr ⟨_, h.isSelf⟩

/-! ## What is noted of a chain (assumption 8) -/

theorem XMark.next_endless (m : XMark) (now : XSeen) :
    (m.next now).endless = true ↔ m.endless = true ∨ m.seen = some now := by
  rw [XMark.next, Bool.or_eq_true, beq_iff_eq]

/-- Turns 1, 2, 4, 8, ... are noted. -/
theorem XMark.next_seen (m : XMark) (now : XSeen) :
    ((∃ k, m.turns + 1 = 2 ^ k) → (m.next now).seen = some now) ∧
    ((∀ k, m.turns + 1 ≠ 2 ^ k) → (m.next now).seen = m.seen) := by
  have hpow : (m.turns + 1) &&& m.turns = 0 ↔ ∃ k, m.turns + 1 = 2 ^ k :=
    Nat.and_sub_one_eq_zero_iff_isPowerOfTwo (Nat.succ_ne_zero m.turns)
  rw [XMark.next]
  exact ⟨fun h => if_pos (hpow.mpr h), fun h => if_neg fun h0 => (hpow.mp h0).elim h⟩

/-- Settles O9: an X of itself stands still on its trail, and two alike places of a trail make it periodic. -/
theorem xChainHangs : Obligations.XChainHangs := by
  refine ⟨fun s c n hcall hc hword hheld => ?self, fun s g i j hij hx => ?repeats⟩
  case self =>
    intro now
    have hself : SelfX (s.setXChain none) c.word n := ⟨hword, hheld⟩
    obtain ⟨hpow, hnot⟩ := XMark.next_seen c.mark now
    refine ⟨c.mark.next now, ?_, rfl, XMark.next_endless c.mark now, hpow, hnot⟩
    rw [step_of_open hcall hc fun k _ => hself.atX c.owed k, hself.trailFrom]
    rfl
  case repeats =>
    intro u v hword hpc hcart hmapper hpool hscratch hdraws
    have hu : SameMachine _ u := trailFrom_sameMachine _ i
    have hv : SameMachine _ v := trailFrom_sameMachine _ j
    exact atX_of_repeats hij hx ⟨hword, hv.md.trans hu.md.symm, hv.wp.trans hu.wp.symm, hv.tags.trans hu.tags.symm, hpc,
      hcart, hmapper, hpool, hscratch, hdraws⟩

/-! ## Host calls in a chain (20_memory.md R146, 70_reset_and_hazards.md R473, R491) -/

/-- The model's search walks the trail as far as it is X's. -/
theorem walk_chainNext (p : Word × State × Nat) (n : Nat) :
    walk chainNext n (p.1, p.2.1) ≠ none ↔ ∀ k, k < n → AtX (trailFrom p k) := by
  induction n generalizing p with
  | zero => exact ⟨fun _ k hk => absurd hk (Nat.not_lt_zero k), fun _ => Option.some_ne_none _⟩
  | succ n ih =>
    rw [walk_succ]
    by_cases hx : AtX p
    · obtain ⟨g, hg⟩ := isX_iff.mp hx
      have hone : trailFrom p 1 = _ := trailFrom_succ_of_x (p := p) (k := 0) hg
      have hstep := ih (trailFrom p 1)
      rw [chainNext_x hg]
      rw [hone] at hstep
      refine hstep.trans ⟨fun h k hk => ?_, fun h k hk => ?_⟩
      · cases k with
        | zero => exact hx
        | succ k =>
          rw [Nat.add_comm, trailFrom_add, hone]
          exact h k (Nat.lt_of_succ_lt_succ hk)
      · rw [← hone, ← trailFrom_add, Nat.add_comm]
        exact h (k + 1) (Nat.succ_lt_succ hk)
    · have hno : chainNext (p.1, p.2.1) = none :=
        chainNext_end (fun g hg => hx (isX_iff.mpr ⟨g, hg⟩)) p.2.1
      rw [hno]
      exact ⟨fun h => absurd rfl h, fun h => absurd (h 0 (Nat.succ_pos n)) hx⟩

theorem hangs_iff_hang (s : State) (c : XChain) : s.hangs c = true ↔ Hang s c := by
  rw [hangs_iff, Hang]
  refine or_congr Iff.rfl ⟨fun h n => ?_, fun h n => ?_⟩
  · exact (walk_chainNext (c.word, s, c.owed) (n + 1)).mp (h (n + 1)) n (Nat.lt_succ_self n)
  · exact (walk_chainNext (c.word, s, c.owed) n).mpr fun k _ => h k

theorem isReset_iff (call : HostCall) : call.isReset = true ↔ ∃ md, call = .reset md := by
  cases call with
  | reset md => exact ⟨fun _ => ⟨md, rfl⟩, fun _ => rfl⟩
  | _ => exact ⟨fun h => Bool.noConfusion h, fun ⟨_, h⟩ => HostCall.noConfusion h⟩

theorem admits_of_chain {s : State} {c : XChain} (hc : s.xChain = some c) (call : HostCall) :
    s.admits call = true ↔ Hang s c ∧ ∃ md, call = .reset md := by
  simp only [State.admits, hc, Bool.and_eq_true, isReset_iff, hangs_iff_hang]
  exact And.comm

theorem pendingCall_of_admits {s : State} {call : HostCall} {rest : List HostCall} (hq : s.sched.queue = call :: rest)
    (h : s.admits call = true) : s.pendingCall = some (call, rest) := by simp only [State.pendingCall, hq, h, if_true]

theorem pendingCall_of_not_admits {s : State} {call : HostCall} {rest : List HostCall} (hq : s.sched.queue = call :: rest)
    (h : ¬ s.admits call = true) : s.pendingCall = none := by simp only [State.pendingCall, hq, if_neg h]

theorem step_of_pendingCall {s : State} {call : HostCall} {rest : List HostCall}
    (h : s.pendingCall = some (call, rest)) : step s = .next (s.serve call rest) := by
  rw [step, h]

/-- What a reset leaves of the loop and of time. -/
theorem hostReset_loop (s : State) (md : Descriptor) :
    (s.hostReset md).xChain = none ∧ (s.hostReset md).run = .halted ∧ (s.hostReset md).cycles = 0 ∧
      (s.hostReset md).md = md ∧
      (s.hostReset md).sched = { Scheduler.initial with bp := s.sched.bp, queue := s.sched.queue } := by
  simp [State.hostReset, State.resetFields]

/-- Settles O60: in a chain the model admits the call exactly in a hang, and then serves it. -/
theorem resetEndsHang : Obligations.ResetEndsHang := by
  refine ⟨fun s c call rest hc hq => ⟨⟨fun h => ?served, fun h => ?serves⟩, fun h => ?waits⟩,
    fun s t c md rest hc hhang hq hok hstep => ?ends, fun s c n md rest hc hq hword hheld => ?self⟩
  case served =>
    refine by_contra fun hno => ?_
    rw [pendingCall_of_not_admits hq (mt (admits_of_chain hc call).mp hno)] at h
    exact absurd h.symm (Option.some_ne_none _)
  case serves => exact pendingCall_of_admits hq ((admits_of_chain hc call).mpr h)
  case waits => exact pendingCall_of_not_admits hq (mt (admits_of_chain hc call).mp h)
  case ends =>
    have hserve := step_of_pendingCall (pendingCall_of_admits hq ((admits_of_chain hc _).mpr ⟨hhang, md, rfl⟩))
    have hcall : s.serve (.reset md) rest = ((s.setSched { s.sched with queue := rest }).hostReset md).answer .done := by
      rw [State.serve, State.hostCall, if_pos hok]
    rw [hserve, hcall] at hstep
    cases hstep
    obtain ⟨hx, hrun, hcycles, hmd, hsched⟩ := hostReset_loop (s.setSched { s.sched with queue := rest }) md
    refine ⟨hx, hrun, ?_, ?_, hcycles, hmd⟩
    · simp only [State.answer, setSched_sched, hsched]
      rfl
    · simp only [State.answer, setSched_sched, hsched]
  case self =>
    have hself : SelfX s c.word n := ⟨hword, hheld⟩
    exact pendingCall_of_admits hq ((admits_of_chain hc _).mpr ⟨.inr fun k => hself.atX c.owed k, md, rfl⟩)

end Sys2Proof.Claims
end

section
/-! PROOFS. Reset, the save state and the host's calls (70_reset_and_hazards.md R470, R490 to R497): a reset reads its vector
from the console ROM and nothing else, the run-length code is undone by its decoder, and an image holds all a load restores. -/

namespace Sys2Proof.Machine

open Sys2Proof.Claims

/-! ## Reset (70_reset_and_hazards.md R470, R471) -/

/-- Where the reset map puts address 0 in the console ROM, the vector's words are the ROM's. -/
theorem readWord_resetVector {s : State} (h : s.tagAt 0 = .consoleRom) {a : Word} (ha : a = 0 ∨ a = 2) :
    s.readWord a = (Memory.read s.md.consoleRom a.toNat ++ Memory.read s.md.consoleRom (a.toNat + 1),
      s.addCycles (penalty s .consoleRom)) := by
  have htag (b : Word) (hb : b.toNat < 16) : s.tagAt b = .consoleRom := by
    have hzero : b.toNat / 16 = (0 : Word).toNat / 16 := Nat.div_eq_of_lt hb
    rw [← h, State.tagAt, State.tagAt, hzero]
  have hpeek (b : Word) (hb : b.toNat < 16) : s.peek b = some (Memory.read s.md.consoleRom b.toNat) := by
    rw [State.peek, State.home, htag b hb]
    simp only [State.homeByte]
    rw [Nat.mod_eq_of_lt (by omega)]
  have hword : s.peekWord (evenAddr a) =
      some (Memory.read s.md.consoleRom a.toNat ++ Memory.read s.md.consoleRom (a.toNat + 1)) := by
    obtain rfl | rfl := ha
    · exact peekWord_of_peek (hpeek 0 (by decide)) (hpeek 1 (by decide))
    · exact peekWord_of_peek (hpeek 2 (by decide)) (hpeek 3 (by decide))
  rw [readWord_of_peek hword, chargeBus_penalty, htag]
  obtain rfl | rfl := ha <;> decide

/-- The vector's two reads cost no time that stays (R470). -/
theorem hostReset_eq (s : State) {md : Descriptor} (hmap : regionInit md 0 = .consoleRom) :
    s.hostReset md =
      { s.resetFields md with
        wp := evenAddr (Memory.read md.consoleRom 0 ++ Memory.read md.consoleRom 1)
        pc := evenAddr (Memory.read md.consoleRom 2 ++ Memory.read md.consoleRom 3) } := by
  have hwp := readWord_resetVector (s := s.resetFields md) hmap (.inl rfl)
  have hpc := readWord_resetVector (s := (s.resetFields md).addCycles (penalty (s.resetFields md) .consoleRom)) hmap (.inr rfl)
  rw [State.hostReset, hwp]
  dsimp only
  rw [hpc]
  rfl

/-- Settles O32: every field but PC and WP is the reset function's own, and the vector is read from the ROM. -/
theorem resetSequence : Obligations.ResetSequence := by
  intro s md hmap t rom
  have ht : t = _ := hostReset_eq s hmap
  clear_value t
  subst ht
  exact ⟨rfl, rfl, rfl, rfl, rfl, rfl, rfl, rfl, rfl, rfl, rfl, rfl, rfl, rfl, rfl, rfl, rfl, rfl, rfl, rfl, rfl, rfl, rfl, rfl,
    rfl, fun r _ => Mapper.resetOf_bank md r, fun _ => rfl, rfl, fun hbanks => if_pos hbanks, rfl, rfl, rfl, rfl⟩

/-! ## The run-length code (70_reset_and_hazards.md R496) -/

/-- The decoder works off its input from the front. -/
theorem rleDecode_append {l w : List Nat} (h : rleDecode l = some w) (t : List Nat) :
    rleDecode (l ++ t) = (rleDecode t).map (w ++ ·) := by
  induction l using rleDecode.induct generalizing w with
  | case1 =>
    cases h
    simp
  | case2 => cases h
  | case3 => simp [rleDecode] at h
  | case4 n l hn ih =>
    simp only [rleDecode, if_neg hn, Option.map_eq_some_iff] at h
    obtain ⟨r, hr, rfl⟩ := h
    simp only [List.cons_append, rleDecode, if_neg hn, ih hr, Option.map_map]
    exact congrArg (Option.map · _) (funext fun x => (List.append_assoc ..).symm)
  | case5 w' l ih =>
    simp only [rleDecode, Option.map_eq_some_iff] at h
    obtain ⟨r, hr, rfl⟩ := h
    simp only [List.cons_append, rleDecode, ih hr, Option.map_map]
    rfl

theorem rleDecode_cons {w : Nat} (hw : w ≠ 0) (t : List Nat) : rleDecode (w :: t) = (rleDecode t).map (w :: ·) := by
  cases w with
  | zero => exact absurd rfl hw
  | succ w => rfl

theorem rleDecode_pair {z : Nat} (hz : z ≠ 0) (t : List Nat) :
    rleDecode (0 :: z :: t) = (rleDecode t).map (List.replicate z 0 ++ ·) := by rw [rleDecode, if_neg hz]

/-- The encoder's zero words not written yet come out first. -/
theorem rleDecode_encodeFrom (l : List Nat) (z : Nat) : rleDecode (rleEncodeFrom z l) = some (List.replicate z 0 ++ l) := by
  induction l generalizing z with
  | nil =>
    rw [rleEncodeFrom]
    split
    case isTrue hz => simp [hz, rleDecode]
    case isFalse hz => simp [rleDecode, hz]
  | cons w t ih =>
    rw [rleEncodeFrom]
    split
    case isTrue hw => rw [ih, hw, List.replicate_succ', List.append_assoc]; rfl
    case isFalse hw =>
      split
      case isTrue hz => simp [rleDecode_cons hw, ih, hz]
      case isFalse hz => simp [rleDecode_pair hz, rleDecode_cons hw, ih]

theorem rleEncodeFrom_length_le (l : List Nat) (z : Nat) : 2 * (rleEncodeFrom z l).length ≤ 3 * (l.length + z) + 1 := by
  induction l generalizing z with
  | nil =>
    rw [rleEncodeFrom]
    split
    case isTrue => exact Nat.zero_le _
    case isFalse hz =>
      simp only [List.length_cons, List.length_nil]
      omega
  | cons w t ih =>
    rw [rleEncodeFrom]
    split
    case isTrue hw =>
      have h := ih (z + 1)
      simp only [List.length_cons]
      omega
    case isFalse hw =>
      have h := ih 0
      split <;> simp only [List.length_cons] <;> omega

theorem rleEncodeFrom_replicate (M z : Nat) (h : 0 < M + z) : rleEncodeFrom z (List.replicate M 0) = [0, M + z] := by
  induction M generalizing z with
  | zero => rw [List.replicate_zero, rleEncodeFrom, if_neg (by omega), Nat.zero_add]
  | succ M ih => rw [List.replicate_succ, rleEncodeFrom, if_pos rfl, ih (z + 1) (by omega), Nat.add_right_comm]; rfl

/-- The code is no longer than the half of three times the number of words, rounded up. -/
theorem rleEncode_length_le (l : List Nat) : (rleEncode l).length ≤ (3 * l.length + 1) / 2 := by
  have h := rleEncodeFrom_length_le l 0
  rw [rleEncode]
  omega

/-- Settles O33: encoding keeps a count of zeros that decoding puts back, and decoding works off its input from the front. -/
theorem runLengthCode : Obligations.RunLengthCode := by
  refine ⟨fun l => ⟨rleDecode_encodeFrom l 0, rleEncode_length_le l⟩, fun M hM => rleEncodeFrom_replicate M 0 hM,
    fun l w t h => ⟨?_, ?_⟩⟩
  · rw [rleDecode_append h]
    rfl
  · rw [rleDecode_append h]
    rfl

/-! ## The pool's words (70_reset_and_hazards.md R496) -/

theorem word32Bytes_bytesToWord32 (b0 b1 b2 b3 : Byte) : word32Bytes (bytesToWord32 b0 b1 b2 b3) = [b0, b1, b2, b3] := by
  have h0 := b0.isLt
  have h1 := b1.isLt
  have h2 := b2.isLt
  have h3 := b3.isLt
  simp only [word32Bytes, bytesToWord32, List.cons.injEq, and_true, ← BitVec.toNat_inj, BitVec.toNat_ofNat]
  omega

theorem bytesToWord32_lt (b0 b1 b2 b3 : Byte) : bytesToWord32 b0 b1 b2 b3 < 4294967296 := by
  have h0 := b0.isLt
  have h1 := b1.isLt
  have h2 := b2.isLt
  have h3 := b3.isLt
  simp only [bytesToWord32]
  omega

/-- Whole words of bytes lose nothing. -/
theorem groupWords_whole (l : List Byte) (h : l.length % 4 = 0) :
    (groupWords l).flatMap word32Bytes = l ∧ 4 * (groupWords l).length = l.length ∧
      ∀ w ∈ groupWords l, w < 4294967296 := by
  induction l using groupWords.induct with
  | case1 b0 b1 b2 b3 t ih =>
    simp only [List.length_cons] at h
    obtain ⟨hbytes, hlen, hlt⟩ := ih (by omega)
    refine ⟨?_, ?_, ?_⟩
    · rw [groupWords, List.flatMap_cons, word32Bytes_bytesToWord32, hbytes]
      rfl
    · simp only [groupWords, List.length_cons]
      omega
    · rw [groupWords, List.forall_mem_cons]
      exact ⟨bytesToWord32_lt b0 b1 b2 b3, hlt⟩
  | case2 => exact ⟨rfl, rfl, by simp [groupWords]⟩
  | case3 | case4 | case5 => simp at h

theorem poolWords_whole (s : State) :
    s.poolWords.flatMap word32Bytes = s.pool.toBytes 0 (s.md.banks * 4096) ∧ s.poolWords.length = poolWordCount s.md ∧
      ∀ w ∈ s.poolWords, w < 4294967296 := by
  have hlen := Memory.toBytes_length s.pool 0 (s.md.banks * 4096)
  obtain ⟨hbytes, hwords, hlt⟩ := groupWords_whole (s.pool.toBytes 0 (s.md.banks * 4096)) (by omega)
  refine ⟨hbytes, ?_, hlt⟩
  rw [State.poolWords, poolWordCount]
  omega

theorem poolOfWords_poolWords {s : State} (h : s.Inv) : poolOfWords s.poolWords = s.pool := by
  rw [poolOfWords, (poolWords_whole s).1, Memory.ofBytes_toBytes h.poolWf h.poolBound]

/-! ## Saving and loading (70_reset_and_hazards.md R495, R497) -/

theorem image_ok {s : State} (h : s.Inv) : imageOk s.md s.image = true :=
  (imageOk_iff s.md s.image).mpr ⟨h.pcEven, h.wpEven, h.stReserved, h.ok, ⟨h.bankBound, h.bankIdentity⟩,
    Memory.toBytes_length ..⟩

theorem saveState_eq_saved {s : State} {ioOk : Bool} {image : SaveImage} (h : s.saveState ioOk = .saved image) :
    image = s.image := by
  rw [State.saveState] at h
  split at h
  · exact (HostReply.saved.inj h).symm
  · exact HostReply.noConfusion h

/-- A machine with the same descriptor takes every part of a saved image (R497). -/
theorem loadState_image {s u : State} (h : s.Inv) (hmd : u.md = s.md) :
    u.loadState s.image true = (.done, u.restore s.image s.poolWords) := by
  obtain ⟨-, hlen, hlt⟩ := poolWords_whole s
  have hdecode : rleDecode s.image.pool = some s.poolWords := rleDecode_encodeFrom s.poolWords 0
  have hall : s.poolWords.all (fun w => decide (w < 4294967296)) = true := by simpa using hlt
  have hversion : s.image.version = u.md.saveVersion := by rw [hmd]; rfl
  have hbanks : s.image.banks = u.md.banks := by rw [hmd]; rfl
  have hok : imageOk u.md s.image = true := by rw [hmd]; exact image_ok h
  simp only [State.loadState, hversion, hbanks, hdecode, hmd ▸ hlen, hall, hok]
  simp

theorem loadState_of_version {u : State} {image : SaveImage} (h : image.version ≠ u.md.saveVersion) :
    u.loadState image true = (.failed .saveStateVersionMismatch, u) := by
  rw [State.loadState, if_neg (by simp), if_pos h]

/-- A load that does not come to its end changes nothing, whatever the first test that fails. -/
theorem loadState_of_version_eq {u : State} {image : SaveImage} (ioOk : Bool) (hversion : image.version = u.md.saveVersion)
    (h : ∀ words, image.banks = u.md.banks → rleDecode image.pool = some words → words.length ≠ poolWordCount u.md) :
    u.loadState image ioOk = (.failed .saveStateIOFailure, u) := by
  obtain ⟨words, -, -, hb, hw, hlen, -⟩ | ⟨-, hv, -⟩ | ⟨-, heq⟩ := loadState_cases u image ioOk
  · exact absurd hlen (h words hb hw)
  · exact absurd hversion hv
  · exact heq

/-- Settles O34: an image holds the fields themselves, and the code and the byte lists are undone one after the other. -/
theorem saveAndLoad : Obligations.SaveAndLoad := by
  refine ⟨fun s u image hinv hsave hmd => ?roundTrip, fun s hcap => ?capacity, fun u image ioOk => ?failures⟩
  case roundTrip =>
    intro r
    have hr : r = (.done, u.restore s.image s.poolWords) := by
      rw [← loadState_image hinv hmd, ← saveState_eq_saved hsave]
    clear_value r
    subst hr
    refine ⟨rfl, rfl, rfl, rfl, rfl, rfl, rfl, rfl, rfl, rfl, rfl, ?scratch, poolOfWords_poolWords hinv, rfl,
      fun g => sparseGet_tagsFor u.md s.mapper.visible g⟩
    case scratch => exact Memory.ofBytes_toBytes hinv.scratchWf hinv.scratchBound
  case capacity =>
    obtain ⟨-, hlen, -⟩ := poolWords_whole s
    have hfits : (rleEncode s.poolWords).length ≤ rleCapacityOf s.md := by
      rw [rleCapacityOf, hcap, ← hlen]
      exact rleEncode_length_le s.poolWords
    refine ⟨s.image, ?_⟩
    rw [State.saveState, if_pos (by simpa using hfits)]
  case failures =>
    intro r
    refine ⟨?answers, fun hio hv => ?version, fun hv hbad => ?otherMachine, fun words hv hw hlen => ?length⟩
    case answers =>
      obtain ⟨_, -, -, -, -, -, -, heq⟩ | ⟨-, -, heq⟩ | ⟨-, heq⟩ := loadState_cases u image ioOk
      · exact .inl (congrArg Prod.fst heq)
      · exact .inr (.inl heq)
      · exact .inr (.inr heq)
    case version =>
      have hload := loadState_of_version hv
      rwa [← hio] at hload
    case otherMachine =>
      refine loadState_of_version_eq ioOk hv fun words hb hw => ?_
      obtain hne | hnone := hbad
      · exact absurd hb hne
      · exact absurd (hnone.symm.trans hw) (Option.some_ne_none words).symm
    case length =>
      refine loadState_of_version_eq ioOk hv fun words' _ hw' => ?_
      rwa [← Option.some.inj (hw.symm.trans hw')]

/-! ## The host's calls (70_reset_and_hazards.md R490, R491) -/

theorem loByte_eq_ofNat (v : Word) : loByte v = BitVec.ofNat 8 v.toNat := by
  rw [← loByte_ofNat, BitVec.ofNat_toNat, BitVec.setWidth_eq]

theorem cruReadBits_toNat (s : State) (a : CruAddr) (n : Nat) :
    s.cruReadBits a 0 0 n = (BitVec.ofNat 16 (receiveBits s a.toNat n).1, (receiveBits s a.toNat n).2) := by
  rw [← cruReadBits_eq_receiveBits, BitVec.ofNat_toNat, BitVec.setWidth_eq]

theorem cruWriteBits_toNat (s : State) (a : CruAddr) (v : Word) (n : Nat) :
    s.cruWriteBits a v 0 n = sendBits s a.toNat n v.toNat := by
  rw [← cruWriteBits_eq_sendBits, BitVec.ofNat_toNat, BitVec.setWidth_eq]

theorem admits_between {s : State} (hx : s.xChain = none) (call : HostCall) : s.admits call = !s.bursting := by
  simp only [State.admits, hx]

theorem pendingCall_of_bursting {s : State} (hx : s.xChain = none) (hb : s.bursting = true) : s.pendingCall = none := by
  cases hq : s.sched.queue with
  | nil => simp only [State.pendingCall, hq]
  | cons call rest => exact pendingCall_of_not_admits hq (by simp [admits_between hx, hb])

theorem step_serves {s : State} {call : HostCall} {rest : List HostCall} (hx : s.xChain = none)
    (hq : s.sched.queue = call :: rest) (h : s.sched.inBurst = false ∨ s.run = .halted) :
    step s = .next (s.serve call rest) := by
  have hb : s.bursting = false := by
    rw [← Bool.not_eq_true, bursting_iff]
    rintro ⟨hin, hrun⟩
    exact h.elim (fun hno => Bool.noConfusion (hin.symm.trans hno)) hrun
  exact step_of_pendingCall (pendingCall_of_admits hq (by rw [admits_between hx, hb]; rfl))

/-- Settles O35: each call's arm, with the transfers as folds and the test of a descriptor spelled out. -/
theorem hostCalls : Obligations.HostCalls := by
  intro s reply
  refine ⟨fun a => ?readByte, fun a => rfl, fun a v => ?writeByte, fun a v => rfl, fun p => rfl, fun p => rfl,
    fun a n hlo hhi => ?readCru, fun a n v hlo hhi => ?writeCru, fun a n hn => ?noRead, fun a n v hn => ?noWrite, rfl,
    fun bp => rfl, fun a n v h1 h2 => ?width, ?burst, fun ioOk => rfl, fun image ioOk => rfl, fun keys => rfl,
    fun j1 j2 => rfl, fun hq => ?emptyQueue, fun hx hin hrun => ?inBurst, fun call rest hx hq hb => ?serves, fun md => ?reset⟩
  case readByte =>
    rw [State.hostCall, State.hostRead, if_pos rfl, ← zextByte_eq_ofNat]
    rfl
  case writeByte =>
    rw [State.hostCall, State.hostWrite, if_pos rfl, ← loByte_eq_ofNat]
    rfl
  case readCru =>
    intro r
    rw [State.hostCall, State.hostReadCru, if_pos ⟨hlo, hhi⟩, cruReadBits_toNat]
    rfl
  case writeCru =>
    rw [State.hostCall, State.hostWriteCru, if_pos ⟨hlo, hhi⟩, cruWriteBits_toNat]
    rfl
  case noRead =>
    rw [State.hostCall, State.hostReadCru, if_neg (by omega)]
    rfl
  case noWrite =>
    rw [State.hostCall, State.hostWriteCru, if_neg (by omega)]
    rfl
  case width =>
    rw [State.hostCall, State.hostCall, State.hostRead, State.hostWrite, if_neg h1, if_neg h2, if_neg h1, if_neg h2]
    exact ⟨rfl, rfl⟩
  case burst => exact beginBurst_eq s
  case emptyQueue => simp only [State.pendingCall, hq]
  case inBurst => exact pendingCall_of_bursting hx ((bursting_iff s).mpr ⟨hin, hrun⟩)
  case serves => exact step_serves hx hq hb
  case reset =>
    intro ok
    refine ⟨fun hok => ?_, fun hno => ?_⟩
    · rw [State.hostCall, if_pos ((descriptorOk_iff md).mpr hok)]
      rfl
    · rw [State.hostCall, if_neg (mt (descriptorOk_iff md).mp hno)]
      rfl

end Sys2Proof.Machine
end

section
/-! PROOFS. The memory frame of an instruction (20_memory.md R106): the bytes an instruction stores to are collected as its
meaning stores them, and a byte that backs none of them keeps its value. -/

namespace Sys2Proof.Claims

open Sys2Proof.Machine

/-! ## What leaves memory alone -/

theorem sameMem_timerSample (s : State) : s.SameMem s.timerSample := sameMem_setIo s _

theorem sameMem_nextDraw (s : State) : s.SameMem s.nextDraw := ⟨rfl, rfl, rfl, rfl, rfl, rfl⟩

theorem sameMem_ioRead (s : State) (p : Nat) : s.SameMem (s.ioRead p).2 := by
  unfold State.ioRead State.matrixRow
  split_ifs
  case neg => exact sameMem_nextDraw s
  all_goals exact .refl s

theorem sameMem_pinRead (s : State) (p : Nat) : s.SameMem (s.pinRead p).2 := by
  refine (sameMem_timerSample s).trans ?_
  simp only [State.pinRead]
  generalize s.timerSample = t
  split
  case isTrue =>
    unfold State.timerRead
    split_ifs
    case neg => exact (sameMem_setIo t _).trans (sameMem_ioRead _ p)
    all_goals exact .refl t
  case isFalse => exact sameMem_ioRead t p

theorem sameMem_cruRead (s : State) (a : CruAddr) : s.SameMem (s.cruRead a).2 := by
  unfold State.cruRead
  split
  case h_1 p _ => exact sameMem_pinRead s p
  case h_2 =>
    split_ifs
    case neg => exact sameMem_nextDraw s
    all_goals exact .refl s

theorem sameMem_cruReadBits (s : State) (a : CruAddr) (v : Word) (i n : Nat) : s.SameMem (s.cruReadBits a v i n).2 := by
  induction n generalizing s v i with
  | zero => exact .refl s
  | succ n ih => exact (sameMem_cruRead s _).trans (ih _ _ _)

theorem sameMem_cruBase (s : State) : s.SameMem s.cruBase.2 := sameMem_readReg s 12

theorem sameMem_readVector (s : State) (v : Word) : s.SameMem (s.readVector v).2 :=
  (sameMem_readWord s v).trans (sameMem_readWord _ _)

theorem sameMem_shiftCount (s : State) (c : BitVec 4) : s.SameMem (s.shiftCount c).2 := by
  rw [State.shiftCount]
  split
  · exact sameMem_readReg s 0
  · exact .refl s

theorem sameMem_jump (s : State) (i : Instr) (cond : Bool) (disp : Byte) : s.SameMem (s.jump i cond disp) := by
  rw [State.jump]
  split
  · exact (sameMem_setPc s _).trans (sameMem_pay ..)
  · exact sameMem_pay ..

theorem sameMem_returnContext (s : State) : s.SameMem s.returnContext :=
  (((((sameMem_readReg s _).trans (sameMem_readReg _ _)).trans (sameMem_readReg _ _)).trans (sameMem_setSt _ _)).trans
    (sameMem_setPc _ _)).trans (sameMem_setWp _ _)

/-! ## Memory but for a list of stored bytes -/

/-- None of these addresses selects a bank. -/
def NoSelector (s : State) (L : List Word) : Prop := ∀ a ∈ L, ¬ Selector s a

theorem NoSelector.left {s : State} {L K : List Word} (h : NoSelector s (L ++ K)) : NoSelector s L :=
  fun a ha => h a (List.mem_append_left K ha)

theorem NoSelector.right {s : State} {L K : List Word} (h : NoSelector s (L ++ K)) : NoSelector s K :=
  fun a ha => h a (List.mem_append_right L ha)

/-- `t` is `s` as far as memory goes, but for the bytes that back the addresses of `L`. -/
structure MemKept (L : List Word) (s t : State) : Prop where
  md : t.md = s.md
  mapper : t.mapper = s.mapper
  cartBank : t.cartBank = s.cartBank
  tags : t.tags = s.tags
  poolWf : t.pool.wf
  scratchWf : t.scratch.wf
  bytes : ∀ x : Home, (∀ a ∈ L, s.home a ≠ x) → t.homeByte x = s.homeByte x

theorem MemKept.refl {s : State} (h : s.Inv) : MemKept [] s s := ⟨rfl, rfl, rfl, rfl, h.poolWf, h.scratchWf, fun _ _ => rfl⟩

theorem MemKept.tagAt {L : List Word} {s t : State} (h : MemKept L s t) (a : Word) : t.tagAt a = s.tagAt a := by
  rw [State.tagAt, h.md, h.tags, State.tagAt]

theorem MemKept.home {L : List Word} {s t : State} (h : MemKept L s t) (a : Word) : t.home a = s.home a := by
  simp only [State.home, h.tagAt, h.mapper, h.cartBank]

theorem MemKept.mono {L K : List Word} {s t : State} (h : MemKept L s t) (hsub : L ⊆ K) : MemKept K s t :=
  { h with bytes := fun x hx => h.bytes x fun a ha => hx a (hsub ha) }

theorem MemKept.sameMem {L : List Word} {s t u : State} (h : MemKept L s t) (hm : t.SameMem u) : MemKept L s u where
  md := hm.md.trans h.md
  mapper := hm.mapper.trans h.mapper
  cartBank := hm.cartBank.trans h.cartBank
  tags := hm.tags.trans h.tags
  poolWf := hm.pool ▸ h.poolWf
  scratchWf := hm.scratch ▸ h.scratchWf
  bytes x hx := (hm.homeByte x).trans (h.bytes x hx)

/-- A store that changes at most bytes of RAM that back the addresses of `K`. -/
theorem MemKept.ramStore {L K : List Word} {s t u : State} (h : MemKept L s t)
    (hu : ∃ n pool scratch, pool.wf ∧ scratch.wf ∧ u = { t with cycles := n, pool := pool, scratch := scratch })
    (hbytes : ∀ x : Home, (∀ a ∈ K, t.home a ≠ x) → u.homeByte x = t.homeByte x) : MemKept (L ++ K) s u := by
  obtain ⟨n, pool, scratch, hp, hs, rfl⟩ := hu
  refine ⟨h.md, h.mapper, h.cartBank, h.tags, hp, hs, fun x hx => ?_⟩
  rw [List.forall_mem_append] at hx
  rw [hbytes x fun a ha => (h.home a).trans_ne (hx.2 a ha), h.bytes x hx.1]

theorem storeTwo_wf {s : State} {x y : Home} {v w : Byte} (hs : s.scratch.wf) (hp : s.pool.wf) :
    ((s.storeHome x v).storeHome y w).scratch.wf ∧ ((s.storeHome x v).storeHome y w).pool.wf := by
  obtain ⟨hs', hp'⟩ := storeHome_wf x v hs hp
  exact storeHome_wf y w hs' hp'

theorem writeWord_ram_wf {s : State} {a : Word} (hs : s.scratch.wf) (hp : s.pool.wf) (h : Ram s (evenAddr a)) (v : Word) :
    (s.writeWord a v).scratch.wf ∧ (s.writeWord a v).pool.wf := by
  rw [writeWord_ram h, chargeStore_penalty]
  exact storeTwo_wf hs hp

theorem writeByte_ram_wf {s : State} {a : Word} (hs : s.scratch.wf) (hp : s.pool.wf) (h : Ram s a) (v : Byte) :
    (s.writeByte a v).scratch.wf ∧ (s.writeByte a v).pool.wf := by
  rw [writeByte_ram h, chargeStore_penalty]
  exact storeHome_wf _ _ hs hp

theorem MemKept.selector {L : List Word} {s t : State} (h : MemKept L s t) (a : Word) : Selector t a ↔ Selector s a := by
  rw [Selector, Selector, h.tagAt]

/-- A word store writes its two bytes, or none. -/
theorem MemKept.writeWord {L : List Word} {s t : State} (h : MemKept L s t) {a : Word} (ha : NoSelector s (wordBytesAt a))
    (v : Word) : MemKept (L ++ wordBytesAt a) s (t.writeWord a v) := by
  by_cases hram : Ram t (evenAddr a)
  · obtain ⟨hs, hp⟩ := writeWord_ram_wf h.scratchWf h.poolWf hram v
    refine h.ramStore ⟨_, _, _, hp, hs, writeWord_ram_eq hram v⟩ fun x hx => ?_
    have hhi := hx (evenAddr a) (by simp [wordBytesAt])
    have hlo := hx (evenAddr a + 1) (by simp [wordBytesAt])
    rw [homeByte_writeWord_ram h.scratchWf h.poolWf hram, if_neg hhi.symm, if_neg hlo.symm]
  · have hsel : ¬ Selector t (evenAddr a) := by
      rw [h.selector]
      exact ha (evenAddr a) (by simp [wordBytesAt])
    exact (h.sameMem (sameMem_writeWord_of_inert ⟨hram, hsel⟩ v)).mono (List.subset_append_left _ _)

theorem MemKept.writeByte {L : List Word} {s t : State} (h : MemKept L s t) {a : Word} (ha : NoSelector s [a]) (v : Byte) :
    MemKept (L ++ [a]) s (t.writeByte a v) := by
  by_cases hram : Ram t a
  · obtain ⟨hs, hp⟩ := writeByte_ram_wf h.scratchWf h.poolWf hram v
    refine h.ramStore ⟨_, _, _, hp, hs, writeByte_ram_eq hram v⟩ fun x hx => ?_
    rw [homeByte_writeByte_ram h.scratchWf h.poolWf hram, if_neg (hx a List.mem_cons_self).symm]
  · have hsel : ¬ Selector t a := by
      rw [h.selector]
      exact ha a List.mem_cons_self
    exact (h.sameMem (sameMem_writeByte_of_inert ⟨hram, hsel⟩ v)).mono (List.subset_append_left _ _)

theorem MemKept.writeReg {L : List Word} {s t : State} (h : MemKept L s t) (hwp : t.wp = s.wp) {i : Nat}
    (ha : NoSelector s (regBytesAt s i)) (v : Word) : MemKept (L ++ regBytesAt s i) s (t.writeReg i v) := by
  rw [writeReg_eq_writeWord hwp]
  exact h.writeWord ha v

/-! ## Operands (40_operands.md R201, R203) -/

/-- Resolving an operand stores at most the register it increments. -/
theorem MemKept.ea {L : List Word} {s t : State} (h : MemKept L s t) (hwp : t.wp = s.wp) {g : GA}
    (hg : NoSelector s (eaStores s g)) (size : Size) : MemKept (L ++ eaStores s g) s (t.ea g size).2 := by
  cases g with
  | inc n => exact (h.sameMem (sameMem_readReg t _)).writeReg ((readReg_wp ..).trans hwp) hg _
  | reg n => exact h.mono (List.subset_append_left _ _)
  | ind n => exact (h.sameMem (sameMem_readReg t _)).mono (List.subset_append_left _ _)
  | sym => exact (h.sameMem (sameMem_fetch t)).mono (List.subset_append_left _ _)
  | idx n =>
    exact ((h.sameMem (sameMem_fetch t)).sameMem (sameMem_readReg _ _)).mono (List.subset_append_left _ _)

section
variable {s : State} (h : s.Inv)
include h

theorem memKept_ea {g : GA} (hg : NoSelector s (eaStores s g)) (size : Size) : MemKept (eaStores s g) s (s.ea g size).2 :=
  (MemKept.refl h).ea rfl hg size

theorem memKept_sourceWord {g : GA} (hg : NoSelector s (eaStores s g)) : MemKept (eaStores s g) s (s.sourceWord g).2 :=
  (memKept_ea h hg .word).sameMem (sameMem_readWord _ _)

theorem memKept_sourceByte {g : GA} (hg : NoSelector s (eaStores s g)) : MemKept (eaStores s g) s (s.sourceByte g).2 :=
  (memKept_ea h hg .byte).sameMem (sameMem_readByte _ _)

theorem memKept_destWord {gs gd : GA} (hg : NoSelector s (eaStores s gs ++ eaStores s gd)) :
    MemKept (eaStores s gs ++ eaStores s gd) s ((s.sourceWord gs).2.ea gd .word).2 :=
  (memKept_sourceWord h hg.left).ea (sourceWord_wp s gs) hg.right .word

theorem memKept_destByte {gs gd : GA} (hg : NoSelector s (eaStores s gs ++ eaStores s gd)) :
    MemKept (eaStores s gs ++ eaStores s gd) s ((s.sourceByte gs).2.ea gd .byte).2 :=
  (memKept_sourceByte h hg.left).ea (sourceByte_wp s gs) hg.right .byte

/-! ## The execution frames -/

theorem memKept_dualModifyWord {gs gd : GA}
    (hL : NoSelector s (eaStores s gs ++ eaStores s gd ++ wordBytesAt ((wordOperand s gs).2.2.ea gd .word).1))
    (f : (d v st : Word) → Word × Word) :
    MemKept (eaStores s gs ++ eaStores s gd ++ wordBytesAt ((wordOperand s gs).2.2.ea gd .word).1) s
      (s.dualModifyWord gs gd f) :=
  (((memKept_destWord h hL.left).sameMem (sameMem_readWord _ _)).sameMem (sameMem_setSt _ _)).writeWord hL.right _

theorem memKept_dualModifyByte {gs gd : GA}
    (hL : NoSelector s (eaStores s gs ++ eaStores s gd ++ [((byteOperand s gs).2.2.ea gd .byte).1]))
    (f : (d v : Byte) → (st : Word) → Byte × Word) :
    MemKept (eaStores s gs ++ eaStores s gd ++ [((byteOperand s gs).2.2.ea gd .byte).1]) s (s.dualModifyByte gs gd f) :=
  (((memKept_destByte h hL.left).sameMem (sameMem_readByte _ _)).sameMem (sameMem_setSt _ _)).writeByte hL.right _

theorem memKept_dualMoveWord {gs gd : GA}
    (hL : NoSelector s (eaStores s gs ++ eaStores s gd ++ wordBytesAt ((wordOperand s gs).2.2.ea gd .word).1))
    (f : (v st : Word) → Word) :
    MemKept (eaStores s gs ++ eaStores s gd ++ wordBytesAt ((wordOperand s gs).2.2.ea gd .word).1) s
      (s.dualMoveWord gs gd f) :=
  ((memKept_destWord h hL.left).sameMem (sameMem_setSt _ _)).writeWord hL.right _

theorem memKept_dualMoveByte {gs gd : GA}
    (hL : NoSelector s (eaStores s gs ++ eaStores s gd ++ [((byteOperand s gs).2.2.ea gd .byte).1]))
    (f : (v : Byte) → (st : Word) → Word) :
    MemKept (eaStores s gs ++ eaStores s gd ++ [((byteOperand s gs).2.2.ea gd .byte).1]) s (s.dualMoveByte gs gd f) :=
  ((memKept_destByte h hL.left).sameMem (sameMem_setSt _ _)).writeByte hL.right _

theorem memKept_dualCompareWord {gs gd : GA} (hL : NoSelector s (eaStores s gs ++ eaStores s gd))
    (f : (v d st : Word) → Word) : MemKept (eaStores s gs ++ eaStores s gd) s (s.dualCompareWord gs gd f) :=
  ((memKept_destWord h hL).sameMem (sameMem_readWord _ _)).sameMem (sameMem_setSt _ _)

theorem memKept_dualCompareByte {gs gd : GA} (hL : NoSelector s (eaStores s gs ++ eaStores s gd))
    (f : (v d : Byte) → (st : Word) → Word) : MemKept (eaStores s gs ++ eaStores s gd) s (s.dualCompareByte gs gd f) :=
  ((memKept_destByte h hL).sameMem (sameMem_readByte _ _)).sameMem (sameMem_setSt _ _)

theorem memKept_singleModify {g : GA} (hL : NoSelector s (eaStores s g ++ wordBytesAt (s.ea g .word).1))
    (f : (v st : Word) → Word × Word) :
    MemKept (eaStores s g ++ wordBytesAt (s.ea g .word).1) s (s.singleModify g f) :=
  (((memKept_ea h hL.left .word).sameMem (sameMem_readWord _ _)).sameMem (sameMem_setSt _ _)).writeWord hL.right _

theorem memKept_singleSet {g : GA} (hL : NoSelector s (eaStores s g ++ wordBytesAt (s.ea g .word).1)) (v : Word) :
    MemKept (eaStores s g ++ wordBytesAt (s.ea g .word).1) s (s.singleSet g v) :=
  (memKept_ea h hL.left .word).writeWord hL.right v

theorem memKept_registerTest {gs : GA} (hL : NoSelector s (eaStores s gs)) (d : Reg) (f : (v x st : Word) → Word) :
    MemKept (eaStores s gs) s (s.registerTest gs d f) :=
  ((memKept_sourceWord h hL).sameMem (sameMem_readReg _ _)).sameMem (sameMem_setSt _ _)

theorem memKept_immediateModify {w : Reg} (hL : NoSelector s (regBytesAt s w.toNat))
    (f : (x imm st : Word) → Word × Word) : MemKept (regBytesAt s w.toNat) s (s.immediateModify w f) :=
  ((((MemKept.refl h).sameMem (sameMem_fetch s)).sameMem (sameMem_readReg _ _)).sameMem (sameMem_setSt _ _)).writeReg
    (by simp) hL _

theorem memKept_shift {w : Reg} (hL : NoSelector s (regBytesAt s w.toNat)) (i : Instr) (c : BitVec 4)
    (f : (v : Word) → (n : Nat) → (st : Word) → Word × Word) : MemKept (regBytesAt s w.toNat) s (s.shift i w c f) :=
  (((((MemKept.refl h).sameMem (sameMem_shiftCount s c)).sameMem (sameMem_readReg _ _)).sameMem
    (sameMem_setSt _ _)).writeReg (by simp) hL _).sameMem (sameMem_pay ..)

end

/-- A context switch stores the three saved words (60_exceptions.md R410). -/
theorem MemKept.contextSwitch {L : List Word} {s t : State} (h : MemKept L s t) {nwp : Word}
    (hc : NoSelector s (contextStores nwp)) (npc : Word) : MemKept (L ++ contextStores nwp) s (t.contextSwitch nwp npc) := by
  rw [contextSwitch_eq, contextStores, ← List.append_assoc, ← List.append_assoc]
  exact ((((h.sameMem (sameMem_setWp t nwp)).writeWord hc.left.left _).writeWord hc.left.right _).writeWord hc.right
    _).sameMem (sameMem_setPc _ _)

/-! ## Writing the CRU: the bytes stay, what addresses mean may move (20_memory.md R113, R133, R134) -/

theorem homeByte_of_same {s t : State} (hmd : t.md = s.md) (hreq : t.mapper.reqw = s.mapper.reqw) (hpool : t.pool = s.pool)
    (hscratch : t.scratch = s.scratch) (x : Home) : t.homeByte x = s.homeByte x := by
  cases x <;> simp only [State.homeByte, Mapper.reqOf, hmd, hreq, hpool, hscratch]

theorem homeByte_reactEnable (s : State) (x : Home) : s.reactEnable.homeByte x = s.homeByte x := by
  unfold State.reactEnable
  split
  case h_1 => rfl
  case h_2 r rest _ =>
    cases r with
    | quiet => exact homeByte_of_same rfl rfl rfl rfl x
    | retag disk lo hi =>
      obtain ⟨tags, htags⟩ := retag_eq (s.setCruInputs rest) disk lo hi
      rw [State.applyEnable, htags]
      exact homeByte_of_same rfl rfl rfl rfl x

theorem homeByte_cruWrite (s : State) (a : CruAddr) (b : Bool) (x : Home) : (s.cruWrite a b).homeByte x = s.homeByte x := by
  unfold State.cruWrite
  split
  case h_1 => exact homeByte_of_same rfl rfl rfl rfl x
  case h_2 =>
    split_ifs
    case pos => exact homeByte_of_same rfl rfl rfl rfl x
    case pos =>
      exact homeByte_of_same (s := s) (t := s.setMapper (s.mapper.writeActive s.md b)) rfl (Mapper.writeActive_reqw ..)
        rfl rfl x
    case neg => exact homeByte_reactEnable (s.log (.cruOut a b)) x

theorem homeByte_cruWriteBits (s : State) (a : CruAddr) (v : Word) (i n : Nat) (x : Home) :
    (s.cruWriteBits a v i n).homeByte x = s.homeByte x := by
  induction n generalizing s i with
  | zero => rfl
  | succ n ih => exact (ih _ _).trans (homeByte_cruWrite ..)

/-- The bytes that back no address of `L` keep their value. -/
def BytesKept (L : List Word) (s t : State) : Prop := ∀ x : Home, (∀ a ∈ L, s.home a ≠ x) → t.homeByte x = s.homeByte x

/-- A CRU write and what follows it leave the bytes alone. -/
theorem MemKept.bytesKept {L : List Word} {s t u v : State} (h : MemKept L s t) (hu : ∀ x, u.homeByte x = t.homeByte x)
    (hv : u.SameMem v) : BytesKept L s v :=
  fun x hx => (hv.homeByte x).trans ((hu x).trans (h.bytes x hx))

/-! ## The instructions -/

/-- An instruction that writes the CRU stores to no more than its operand's own register. -/
theorem execPlain_bytesKept {i : Instr} {s : State} (h : s.Inv) (hcru : writesCru i = true)
    (hL : NoSelector s (stores s i)) : NextWith (BytesKept (stores s i) s) (execPlain i s) := by
  cases i with
  | sbo disp =>
    exact ⟨_, rfl, ((MemKept.refl h).sameMem (sameMem_cruBase s)).bytesKept
      (homeByte_cruWrite _ (s.cruBitAddr disp).1 true) (sameMem_pay ..)⟩
  | sbz disp =>
    exact ⟨_, rfl, ((MemKept.refl h).sameMem (sameMem_cruBase s)).bytesKept
      (homeByte_cruWrite _ (s.cruBitAddr disp).1 false) (sameMem_pay ..)⟩
  | ldcr gs c =>
    refine nextWith_ldcr (fun _ v hv => ?byte) fun _ v hv => ?word
    case byte =>
      subst hv
      exact ((memKept_sourceByte h hL).sameMem (sameMem_cruBase _)).bytesKept (homeByte_cruWriteBits _ _ _ _ _)
        ((sameMem_setSt ..).trans (sameMem_pay ..))
    case word =>
      subst hv
      exact ((memKept_sourceWord h hL).sameMem (sameMem_cruBase _)).bytesKept (homeByte_cruWriteBits _ _ _ _ _)
        ((sameMem_setSt ..).trans (sameMem_pay ..))
  | _ => exact Bool.noConfusion hcru

/-- XOP writes the new workspace's R11 after the switch (42_format3_9.md R263). -/
theorem memKept_xop {gs : GA} {n : BitVec 4} {s : State} (h : s.Inv) (hL : NoSelector s (stores s (.xop gs n))) :
    NextWith (MemKept (stores s (.xop gs n)) s) (exec (.xop gs n) s) := by
  refine ⟨_, exec_xop gs n s, ?_⟩
  rw [writeReg_of_wp (contextSwitch_wp ..) 11]
  exact (((((((memKept_ea h hL.left.left .word).sameMem (sameMem_readWord ..)).sameMem (sameMem_readWord ..)).contextSwitch
    hL.left.right _).writeWord hL.right _).sameMem (sameMem_setSt ..)).sameMem (sameMem_setNoIntCheck _ true)).sameMem
    (sameMem_pay ..)

theorem memKept_div {gs : GA} {d : Reg} {s : State} (h : s.Inv) (hL : NoSelector s (stores s (.div gs d))) :
    NextWith (MemKept (stores s (.div gs d)) s) (execDiv gs d s) := by
  have hd (v : Word × State) (hv : v = s.sourceWord gs) : v.2.readReg d.toNat = v.2.readWord (regAddr s d.toNat) :=
    readReg_eq_readWord (hv ▸ sourceWord_wp s gs) _
  refine nextWith_div (fun v hi hv hhi hle => ?overflow) fun v hi hv hhi hle q r o => ?divided
  case overflow =>
    rw [hd v hv] at hhi
    subst hhi hv
    refine MemKept.mono (L := eaStores s gs) ?_ (List.subset_append_left _ _)
    exact (((memKept_sourceWord h hL.left).sameMem (sameMem_readWord _ _)).sameMem (sameMem_setSt ..)).sameMem
      (sameMem_pay ..)
  case divided =>
    have hstores : stores s (.div gs d) = eaStores s gs ++ regBytesAt s d.toNat ++ regBytesAt s (d.toNat + 1) := by
      have hle' : ¬ (s.sourceWord gs).1.toNat ≤ ((s.sourceWord gs).2.readWord (regAddr s d.toNat)).1.toNat := by
        rw [← hd _ rfl, ← hv, ← hhi]
        exact hle
      rw [List.append_assoc]
      exact congrArg _ (if_neg hle')
    rw [hstores] at hL ⊢
    subst hhi hv
    exact ((((((memKept_sourceWord h hL.left.left).sameMem (sameMem_readReg _ _)).sameMem (sameMem_readReg _ _)).writeReg
      (by simp) hL.left.right q).writeReg (by simp) hL.right r).sameMem (sameMem_setSt ..)).sameMem (sameMem_pay ..)

theorem memKept_stcr {gd : GA} {c : BitVec 4} {s : State} (h : s.Inv) (hL : NoSelector s (stores s (.stcr gd c))) :
    NextWith (MemKept (stores s (.stcr gd c)) s) (execStcr gd c s) := by
  refine nextWith_stcr (fun hc a ha => ?byte) fun hc a ha => ?word
  case byte =>
    have hstores : stores s (.stcr gd c) = eaStores s gd ++ [(s.ea gd .byte).1] :=
      congrArg _ (if_pos (cruCount_eq c ▸ hc))
    rw [hstores] at hL ⊢
    subst ha
    exact (((((memKept_ea h hL.left .byte).sameMem (sameMem_cruBase _)).sameMem (sameMem_cruReadBits ..)).sameMem
      (sameMem_setSt ..)).writeByte hL.right _).sameMem (sameMem_pay ..)
  case word =>
    have hstores : stores s (.stcr gd c) = eaStores s gd ++ wordBytesAt (s.ea gd .word).1 :=
      congrArg _ (if_neg (cruCount_eq c ▸ hc))
    rw [hstores] at hL ⊢
    subst ha
    exact (((((memKept_ea h hL.left .word).sameMem (sameMem_cruBase _)).sameMem (sameMem_cruReadBits ..)).sameMem
      (sameMem_setSt ..)).writeWord hL.right _).sameMem (sameMem_pay ..)

theorem memKept_abs {g : GA} {s : State} (h : s.Inv) (hL : NoSelector s (stores s (.abs g))) :
    NextWith (MemKept (stores s (.abs g)) s) (execAbs g s) := by
  refine nextWith_abs fun v t hv ht => ?_
  have hkept : MemKept (eaStores s g) s t := by
    rw [ht, hv]
    exact ((memKept_ea h hL.left .word).sameMem (sameMem_readWord ..)).sameMem (sameMem_setSt ..)
  refine ⟨fun hneg => ?negative, (hkept.mono (List.subset_append_left _ _)).sameMem (sameMem_pay ..)⟩
  case negative =>
    have hstores : stores s (.abs g) = eaStores s g ++ wordBytesAt (s.ea g .word).1 := by
      rw [hv, BitVec.msb_eq_getLsbD_last] at hneg
      exact congrArg _ (if_pos hneg)
    rw [hstores] at hL ⊢
    exact (hkept.writeWord hL.right _).sameMem (sameMem_pay ..)

/-- Every other instruction stores what `stores` lists, in that order. -/
theorem execPlain_memKept {i : Instr} {s : State} (h : s.Inv) (hcru : writesCru i = false) (hL : NoSelector s (stores s i)) :
    NextWith (MemKept (stores s i) s) (execPlain i s) := by
  have hs := MemKept.refl h
  cases i with
  | a gs gd | s gs gd | soc gs gd | szc gs gd => exact ⟨_, rfl, (memKept_dualModifyWord h hL _).sameMem (sameMem_pay ..)⟩
  | ab gs gd | sb gs gd | socb gs gd | szcb gs gd =>
    exact ⟨_, rfl, (memKept_dualModifyByte h hL _).sameMem (sameMem_pay ..)⟩
  | c gs gd => exact ⟨_, rfl, (memKept_dualCompareWord h hL _).sameMem (sameMem_pay ..)⟩
  | cb gs gd => exact ⟨_, rfl, (memKept_dualCompareByte h hL _).sameMem (sameMem_pay ..)⟩
  | mov gs gd => exact ⟨_, rfl, (memKept_dualMoveWord h hL _).sameMem (sameMem_pay ..)⟩
  | movb gs gd => exact ⟨_, rfl, (memKept_dualMoveByte h hL _).sameMem (sameMem_pay ..)⟩
  | jmp _ | jlt _ | jle _ | jeq _ | jhe _ | jgt _ | jne _ | jnc _ | joc _ | jno _ | jl _ | jh _ | jop _ =>
    exact ⟨_, rfl, hs.sameMem (sameMem_jump ..)⟩
  | sbo _ | sbz _ | ldcr _ _ => exact Bool.noConfusion hcru
  | tb _ =>
    exact ⟨_, rfl, (((hs.sameMem (sameMem_cruBase s)).sameMem (sameMem_cruRead ..)).sameMem (sameMem_setSt ..)).sameMem
      (sameMem_pay ..)⟩
  | coc _ _ | czc _ _ => exact ⟨_, rfl, (memKept_registerTest h hL ..).sameMem (sameMem_pay ..)⟩
  | xor gs d =>
    exact ⟨_, rfl, ((((memKept_sourceWord h hL.left).sameMem (sameMem_readReg ..)).sameMem (sameMem_setSt ..)).writeReg
      (by simp) hL.right _).sameMem (sameMem_pay ..)⟩
  | xop gs n => exact memKept_xop h hL
  | mpy gs d =>
    exact ⟨_, rfl, ((((memKept_sourceWord h hL.left.left).sameMem (sameMem_readReg ..)).writeReg (by simp) hL.left.right
      _).writeReg (by simp) hL.right _).sameMem (sameMem_pay ..)⟩
  | div gs d => exact memKept_div h hL
  | stcr gd c => exact memKept_stcr h hL
  | sra w c | srl w c | sla w c | src w c => exact ⟨_, rfl, memKept_shift h hL ..⟩
  | blwp g =>
    exact ⟨_, rfl, ((((memKept_ea h hL.left .word).sameMem (sameMem_readVector ..)).contextSwitch hL.right _).sameMem
      (sameMem_setNoIntCheck _ true)).sameMem (sameMem_pay ..)⟩
  | b g => exact ⟨_, rfl, ((memKept_ea h hL .word).sameMem (sameMem_setPc ..)).sameMem (sameMem_pay ..)⟩
  | x g => exact ⟨_, rfl, hs⟩
  | clr g | seto g => exact ⟨_, rfl, (memKept_singleSet h hL _).sameMem (sameMem_pay ..)⟩
  | neg g | inv g | inc g | inct g | dec g | dect g | swpb g =>
    exact ⟨_, rfl, (memKept_singleModify h hL _).sameMem (sameMem_pay ..)⟩
  | bl g =>
    exact ⟨_, rfl, (((memKept_ea h hL.left .word).writeReg (by simp) hL.right _).sameMem (sameMem_setPc ..)).sameMem
      (sameMem_pay ..)⟩
  | abs g => exact memKept_abs h hL
  | li w =>
    exact ⟨_, rfl, (((hs.sameMem (sameMem_fetch s)).sameMem (sameMem_setSt ..)).writeReg (by simp) hL _).sameMem
      (sameMem_pay ..)⟩
  | ai w | andi w | ori w => exact ⟨_, rfl, (memKept_immediateModify h hL _).sameMem (sameMem_pay ..)⟩
  | ci w =>
    exact ⟨_, rfl, (((hs.sameMem (sameMem_fetch s)).sameMem (sameMem_readReg ..)).sameMem (sameMem_setSt ..)).sameMem
      (sameMem_pay ..)⟩
  | stwp w | stst w => exact ⟨_, rfl, (hs.writeReg rfl hL _).sameMem (sameMem_pay ..)⟩
  | lwpi => exact ⟨_, rfl, ((hs.sameMem (sameMem_fetch s)).sameMem (sameMem_setWp ..)).sameMem (sameMem_pay ..)⟩
  | limi => exact ⟨_, rfl, ((hs.sameMem (sameMem_fetch s)).sameMem (sameMem_setSt ..)).sameMem (sameMem_pay ..)⟩
  | idle => exact ⟨_, rfl, (hs.sameMem (sameMem_setRun s .idleWaiting)).sameMem (sameMem_pay ..)⟩
  | rset => exact ⟨_, rfl, ((hs.sameMem (sameMem_setSt s _)).sameMem (sameMem_log ..)).sameMem (sameMem_pay ..)⟩
  | rtwp => exact ⟨_, rfl, (hs.sameMem (sameMem_returnContext s)).sameMem (sameMem_pay ..)⟩
  | ckon | ckof | lrex => exact ⟨_, rfl, (hs.sameMem (sameMem_log ..)).sameMem (sameMem_pay ..)⟩
  | illegal0000 _ | illegal0320 _ | illegal0780 _ | illegal0C00 _ =>
    exact ⟨_, rfl, (hs.sameMem (sameMem_log ..)).sameMem (sameMem_addCycles ..)⟩

/-- Settles O12: an instruction's stores are the listed ones, and only a CRU write moves what an address means. -/
theorem memoryFrame : Obligations.MemoryFrame := by
  intro i s t hinv hx hL ht
  rw [exec_eq_execPlain_of_not_isX hx] at ht
  cases hcru : writesCru i
  case true => exact ⟨(execPlain_bytesKept hinv hcru hL).of_eq ht, nofun⟩
  case false =>
    have hkept := (execPlain_memKept hinv hcru hL).of_eq ht
    refine ⟨hkept.bytes, fun _ b hb => ?_⟩
    rw [State.peek, hkept.home, hkept.bytes (s.home b) hb, State.peek]

end Sys2Proof.Claims
end
